-- ==== Sys2Proof/Word.lean ====
section
/-! DEFINITION. The word types of the block (byte, address, command word), the enumerations of
spec/30_encoding.md R102 and R103 as inductive types, and the plain records that a command or a
socket callback carries beside its word (spec/30_encoding.md R104, R105 "payload"). -/

namespace Sys2Proof

/-- One byte, `data: u8` (20_memory.md R81). -/
abbrev Byte := BitVec 8

/-- One address of the memory or the I/O space, `addr: u16` (20_memory.md R80). -/
abbrev Addr := BitVec 16

/-- One command word (30_encoding.md R104), and the width of every counter (10_state.md R28). -/
abbrev Word32 := BitVec 32

/-- CtrlFlags (30_encoding.md R100): bit 0 RD, 1 WR, 2 MREQ, 3 IORQ, 4 M1, 5 WAIT, bits 6 and 7
zero; 1 means asserted. -/
abbrev CtrlFlags := BitVec 8

/-- A bus action (30_encoding.md R103), with `none` for "no action". -/
inductive BusAction where
  | none | reset | nmi | irq | busRequest
deriving DecidableEq, Repr, Inhabited

/-- The actions a REQUEST_ACTION may ask for (10_state.md R21: action in Reset, NMI, IRQ). -/
inductive Pulse where
  | reset | nmi | irq
deriving DecidableEq, Repr, Inhabited

/-- The status of the bus action in progress (30_encoding.md R103). -/
inductive ActionStatus where
  | none | pending | asserted
deriving DecidableEq, Repr, Inhabited

/-- The outcome a completion callback is given (30_encoding.md R103, 42_bus_actions.md R215). -/
inductive ActOutcome where
  | ok | busRequestFailed | actionTimedOut
deriving DecidableEq, Repr, Inhabited

/-- TrackerState (30_encoding.md R103). -/
inductive TrackerState where
  | idle | awaiting | injecting | postInject
deriving DecidableEq, Repr, Inhabited

/-- The kind of the running injection (30_encoding.md R103). -/
inductive SeqKind where
  | none | get | set
deriving DecidableEq, Repr, Inhabited

/-- The two breakpoint tables (30_encoding.md R103: FAST 0, SLOW 1). -/
inductive BpTable where
  | fast | slow
deriving DecidableEq, Repr, Inhabited

/-- The service configuration (00_scope.md R9); no rule depends on it. -/
inductive ServiceMode where
  | poll | timer
deriving DecidableEq, Repr, Inhabited

/-- The error kinds (30_encoding.md R103, 60_exceptions.md R411 to R416). -/
inductive ErrKind where
  | hardwareTimeout | protocolDecodeTimeout | resourceExhausted | diagnosticEvent
  | invalidArgument | busy
deriving DecidableEq, Repr, Inhabited

/-- A socket's answer to one bus cycle (30_encoding.md R102). -/
inductive Decision where
  | notDecoded
  | value (b : Byte)
  | injectOpcode (b : Byte)
deriving DecidableEq, Repr, Inhabited

/-- The Z80's interrupt mode (46_injection.md R361, rows im 0, im 1, im 2). -/
inductive IntMode where
  | im0 | im1 | im2
deriving DecidableEq, Repr, Inhabited

/-- The value a command returns with Ok (60_exceptions.md R417). -/
inductive RetVal where
  | none
  | handle (h : Nat)
  | buffer (bs : List Byte)
  | hit (r : Option (BpTable × Nat × String))
  | bool (b : Bool)
  | decision (d : Decision)
deriving DecidableEq, Repr, Inhabited

/-- The result channel of a command (60_exceptions.md R417): `Ok | Error | NoBusAck`. -/
inductive Ret where
  | ok (v : RetVal)
  | error (k : ErrKind)
  | noBusAck
deriving DecidableEq, Repr, Inhabited

/-- Z80Registers, the snapshot value type (10_state.md R34). `im` is 0, 1, 2 or 0xFF (unknown). -/
structure Z80Registers where
  pc : BitVec 16
  sp : BitVec 16
  af : BitVec 16
  bc : BitVec 16
  de : BitVec 16
  hl : BitVec 16
  ix : BitVec 16
  iy : BitVec 16
  afAlt : BitVec 16
  bcAlt : BitVec 16
  deAlt : BitVec 16
  hlAlt : BitVec 16
  i : Byte
  r : Byte
  im : Byte
  iff : Bool
deriving DecidableEq, Repr, Inhabited

/-- A snapshot with every field 0 and the given interrupt mode (10_state.md R32, R34). -/
def Z80Registers.zero (im : Byte) : Z80Registers :=
  { pc := 0, sp := 0, af := 0, bc := 0, de := 0, hl := 0, ix := 0, iy := 0, afAlt := 0, bcAlt := 0,
    deAlt := 0, hlAlt := 0, i := 0, r := 0, im := im, iff := false }

/-- The registers of the external Z80 itself, the environment agent of 00_scope.md R8 and
10_state.md R40; its effects are those of 46_injection.md R361. `eiShadow` is true while an `ei`
has run and the instruction after it has not ("ei takes effect after the next instruction", log entry 18). -/
structure Z80Regs where
  pc : BitVec 16
  sp : BitVec 16
  af : BitVec 16
  bc : BitVec 16
  de : BitVec 16
  hl : BitVec 16
  ix : BitVec 16
  iy : BitVec 16
  afAlt : BitVec 16
  bcAlt : BitVec 16
  deAlt : BitVec 16
  hlAlt : BitVec 16
  i : Byte
  r : Byte
  im : IntMode
  iff1 : Bool
  iff2 : Bool
  eiShadow : Bool
deriving DecidableEq, Repr, Inhabited

/-- A command a socket issues from inside one of its callbacks (40_socket_table.md R147): its word
and the payloads that the commands allowed there may carry. -/
structure CbCommand where
  word : Word32
  len : Nat := 0
  buf : List Byte := []
  msg : String := ""
deriving DecidableEq, Repr, Inhabited

/-- What a collaborator's `on_wait_cycle` does in one call: the commands it issues, in order, and the
decision it returns (10_state.md R21, 40_socket_table.md R147). -/
structure WaitReply where
  cmds : List CbCommand := []
  decision : Decision := .notDecoded
deriving DecidableEq, Repr, Inhabited

/-- A socket's `on_wait_cycle` (10_state.md R21): none in an unregistered slot, the tracker's own
(45_tracker.md R320), or a collaborator's, given by what its next calls do. -/
inductive WaitCallback where
  | none
  | tracker
  | script (replies : List WaitReply)
deriving DecidableEq, Repr, Inhabited

/-- A socket's `on_bus_action_complete` (10_state.md R21), as `WaitCallback`. -/
inductive DoneCallback where
  | none
  | tracker
  | script (replies : List (List CbCommand))
deriving DecidableEq, Repr, Inhabited

/-- The payload of ADD_SOCKET (40_socket_table.md R140). The two callbacks are the collaborator's own,
given by what their calls do (93_implementation_defined.md U13: parameters of the model). -/
structure SocketInfo where
  enabled : Bool := false
  waitOnMemory : Bool := false
  waitOnIo : Bool := false
  hold : Bool := false
  durResetUs : Nat := 0
  durNmiUs : Nat := 0
  durIrqUs : Nat := 0
  waitReplies : List WaitReply := []
  doneReplies : List (List CbCommand) := []
deriving DecidableEq, Repr, Inhabited

/-- The payload that stands beside a command word (30_encoding.md R104): every operand that is not in
the word. A command reads the fields R105 gives it and no other. -/
structure Payload where
  /-- ADD_SOCKET -/
  info : SocketInfo := {}
  /-- BLOCK_READ -/
  len : Nat := 0
  /-- BLOCK_WRITE -/
  buf : List Byte := []
  /-- TRK_START_SET -/
  regs : Z80Registers := Z80Registers.zero 0
  /-- BP_SET -/
  msg : String := ""
  /-- ON_WAIT_CYCLE -/
  addr : Addr := 0
  data : Byte := 0
  flags : CtrlFlags := 0
  /-- ON_BUS_ACTION_COMPLETE -/
  action : BusAction := .none
  reason : Byte := 0
  outcome : ActOutcome := .ok
deriving DecidableEq, Repr, Inhabited

/-- What the Z80 does outside the instructions of 46_injection.md R361 (00_scope.md R8): one bus cycle, or
the end of what it was doing, with the registers it then has (log entries 12 and 15). -/
inductive Z80Move where
  | cycle (flags : CtrlFlags) (addr : Addr) (data : Byte)
  | become (regs : Z80Regs)
deriving DecidableEq, Repr, Inhabited

/-- One move of an agent in the total order of 20_memory.md R89: a host command (10_state.md R38), one
move of the Z80 on the bytes it fetches, or one that the Z80 makes outside the instructions of
46_injection.md R361. -/
inductive Turn where
  | host (word : Word32) (payload : Payload)
  | z80
  | outside (m : Z80Move)
deriving DecidableEq, Repr, Inhabited

end Sys2Proof
end

