-- ==== Sys2Proof/Syntax.lean ====
section
/-! DEFINITION. The instructions: one constructor per row of spec/opcode_table.json. The first 27 are
the block's command words (30_encoding.md R105), with the fields of the word as arguments (payloads
are not part of the word: R107); the last 28 are the Z80 instructions that the injected programs use
(46_injection.md R361), with their operand bytes as arguments. -/

namespace Sys2Proof

/-- One constructor per row of spec/opcode_table.json. -/
inductive Instr where
  -- format CMD, 30_encoding.md R105
  | addSocket
  | enableSocket (h : BitVec 8) (e : Bool)
  | setWaitOn (h : BitVec 8) (m i : Bool)
  | setHold (h : BitVec 8) (d : Bool)
  | requestAction (h : BitVec 8) (reason : Byte) (act : BitVec 2)
  | requestBus (h : BitVec 8) (reason : Byte)
  | serviceTick
  | checkPending
  | startPending
  | advancePending
  | requestAndTake
  | release
  | blockRead (auto io : Bool) (addr : Addr)
  | blockWrite (auto io : Bool) (addr : Addr)
  | trkEnable (e : Bool)
  | trkRequestGet
  | trkStartSet
  | trkStep
  | trkRun
  | trkHalt
  | bpSet (t : BpTable) (idx : Nat) (pc : Addr)
  | bpClear (t : BpTable) (idx : Nat)
  | bpGlobalEnable (e : Bool)
  | checkForBreak (flags : CtrlFlags) (addr : Addr)
  | isPrefix (b : Byte)
  | onWaitCycle
  | onBusActionComplete
  -- format Z80, 46_injection.md R361
  | pushAf
  | popAf
  | pushIx
  | pushIy
  | ldAR
  | ldAI
  | ldRA
  | ldIA
  | ldMemA (nn : Addr)
  | ldMemHl (nn : Addr)
  | ldMemDe (nn : Addr)
  | ldMemBc (nn : Addr)
  | ldAN (n : Byte)
  | ldBcNn (nn : BitVec 16)
  | ldDeNn (nn : BitVec 16)
  | ldHlNn (nn : BitVec 16)
  | ldSpNn (nn : BitVec 16)
  | ldIxNn (nn : BitVec 16)
  | ldIyNn (nn : BitVec 16)
  | exx
  | exAfAf
  | im0
  | im1
  | im2
  | ei
  | di
  | jrD (d : Byte)
  | jpNn (nn : Addr)
deriving DecidableEq, Repr

end Sys2Proof
end

