-- ==== Sys2Proof/WellFormed.lean ====
section
/-! DEFINITION. Which instruction terms an encoding exists for: the field widths of 30_encoding.md R105
that the constructors' types do not already fix. -/

namespace Sys2Proof

/-- An instruction that some word encodes (30_encoding.md R105): a breakpoint index is 7 bits wide
(`x[6:0]`), and a CtrlFlags operand is 6 bits wide (`x[5:0]`; R100: bits 7 and 6 are zero). Every
other field's type is exactly as wide as its place in the word. -/
def Instr.wf : Instr → Bool
  | .bpSet _ idx _ => decide (idx < 128)
  | .bpClear _ idx => decide (idx < 128)
  | .checkForBreak flags _ => decide (flags &&& 0xC0#8 = 0#8)
  | _ => true

/-- The rows of format Z80 (46_injection.md R361); the others are the block's command words. -/
def Instr.isZ80 : Instr → Bool
  | .pushAf | .popAf | .pushIx | .pushIy | .ldAR | .ldAI | .ldRA | .ldIA => true
  | .ldMemA _ | .ldMemHl _ | .ldMemDe _ | .ldMemBc _ | .ldAN _ => true
  | .ldBcNn _ | .ldDeNn _ | .ldHlNn _ | .ldSpNn _ | .ldIxNn _ | .ldIyNn _ => true
  | .exx | .exAfAf | .im0 | .im1 | .im2 | .ei | .di | .jrD _ | .jpNn _ => true
  | _ => false

end Sys2Proof
end

