-- ==== Sys2Proof/Decode.lean ====
section
/-! DEFINITION. Decoding and encoding. A command word is decoded by 30_encoding.md R104 to R106; the Z80
instructions of the injected programs by the byte table of 46_injection.md R361. Both decoders are
total, and refuse by name. Reserved bits of a command word must be zero (R106). -/

namespace Sys2Proof

/-! ### Bytes and pairs (20_memory.md R82, 10_state.md R34) -/

/-- `hi8 ++ lo8` (00_scope.md R10). -/
def pair (hi lo : Byte) : BitVec 16 := hi ++ lo

/-- `lo(x) = x & 0xFF` (46_injection.md notation). -/
def lo (x : BitVec 16) : Byte := x.extractLsb' 0 8

/-- `hi(x) = (x >> 8) & 0xFF` (46_injection.md notation). -/
def hi (x : BitVec 16) : Byte := x.extractLsb' 8 8

/-- The four prefix bytes (30_encoding.md R108, 44_boundary_breakpoints.md R280). -/
def prefixByte (b : Byte) : Bool := b == 0xCB#8 || b == 0xDD#8 || b == 0xED#8 || b == 0xFD#8

/-! ### Command words -/

/-- Why a decoder refuses. -/
inductive DecodeError where
  /-- The word's operation code is reserved (30_encoding.md R106). -/
  | illegalOp (op : Byte)
  /-- A bit that the word's row marks `0` is set (30_encoding.md R106). -/
  | reservedBits (op : Byte)
  /-- The bytes end before the Z80 instruction they begin. -/
  | truncated
  /-- The bytes begin no instruction of 46_injection.md R361. -/
  | unlistedBytes (b : Byte)
deriving DecidableEq, Repr

/-- Field `op`, bits 31:24 (30_encoding.md R104). -/
def wordOp (w : Word32) : Byte := w.extractLsb' 24 8

/-- Field `x`, bits 23:16 (30_encoding.md R104). -/
def wordX (w : Word32) : Byte := w.extractLsb' 16 8

/-- Field `imm`, bits 15:0 (30_encoding.md R104). -/
def wordImm (w : Word32) : BitVec 16 := w.extractLsb' 0 16

/-- A command word from its three fields (30_encoding.md R104). -/
def mkWord (op x : Byte) (imm : BitVec 16) : Word32 := op ++ x ++ imm

/-- Codes of the breakpoint tables (30_encoding.md R103: FAST 0, SLOW 1), one bit wide. -/
def BpTable.ofBit (b : Bool) : BpTable := if b then .slow else .fast

/-- The inverse of `BpTable.ofBit`. -/
def BpTable.bit : BpTable → Bool
  | .fast => false
  | .slow => true

/-- A command row whose reserved bits must be zero: the instruction when they are (30_encoding.md R106). -/
def reservedZero (op : Byte) (ok : Bool) (i : Instr) : Except DecodeError Instr :=
  if ok then .ok i else .error (.reservedBits op)

/-- The decoder of command words, one line per row of 30_encoding.md R105. -/
def decodeCommand (w : Word32) : Except DecodeError Instr :=
  let op := wordOp w
  let x := wordX w
  let imm := wordImm w
  match op.toNat with
  | 0x01 => reservedZero op (x == 0 && imm == 0) .addSocket
  | 0x02 => reservedZero op (imm &&& 0xFFFE == 0) (.enableSocket x (imm.getLsbD 0))
  | 0x03 => reservedZero op (imm &&& 0xFFFC == 0) (.setWaitOn x (imm.getLsbD 0) (imm.getLsbD 1))
  | 0x04 => reservedZero op (imm &&& 0xFFFE == 0) (.setHold x (imm.getLsbD 0))
  | 0x05 => reservedZero op (imm &&& 0x00FC == 0) (.requestAction x (hi imm) (imm.extractLsb' 0 2))
  | 0x06 => reservedZero op (imm &&& 0x00FF == 0) (.requestBus x (hi imm))
  | 0x08 => reservedZero op (x == 0 && imm == 0) .serviceTick
  | 0x09 => reservedZero op (x == 0 && imm == 0) .checkPending
  | 0x0A => reservedZero op (x == 0 && imm == 0) .startPending
  | 0x0B => reservedZero op (x == 0 && imm == 0) .advancePending
  | 0x0C => reservedZero op (x == 0 && imm == 0) .requestAndTake
  | 0x0D => reservedZero op (x == 0 && imm == 0) .release
  | 0x0E => reservedZero op (x &&& 0xFC == 0) (.blockRead (x.getLsbD 1) (x.getLsbD 0) imm)
  | 0x0F => reservedZero op (x &&& 0xFC == 0) (.blockWrite (x.getLsbD 1) (x.getLsbD 0) imm)
  | 0x10 => reservedZero op (x == 0 && imm &&& 0xFFFE == 0) (.trkEnable (imm.getLsbD 0))
  | 0x11 => reservedZero op (x == 0 && imm == 0) .trkRequestGet
  | 0x12 => reservedZero op (x == 0 && imm == 0) .trkStartSet
  | 0x13 => reservedZero op (x == 0 && imm == 0) .trkStep
  | 0x14 => reservedZero op (x == 0 && imm == 0) .trkRun
  | 0x15 => reservedZero op (x == 0 && imm == 0) .trkHalt
  | 0x18 => .ok (.bpSet (.ofBit (x.getLsbD 7)) (x &&& 0x7F).toNat imm)
  | 0x19 => reservedZero op (imm == 0) (.bpClear (.ofBit (x.getLsbD 7)) (x &&& 0x7F).toNat)
  | 0x1A => reservedZero op (x == 0 && imm &&& 0xFFFE == 0) (.bpGlobalEnable (imm.getLsbD 0))
  | 0x1B => reservedZero op (x &&& 0xC0 == 0) (.checkForBreak x imm)
  | 0x1C => reservedZero op (x == 0 && hi imm == 0) (.isPrefix (lo imm))
  | 0x20 => reservedZero op (x == 0 && imm == 0) .onWaitCycle
  | 0x21 => reservedZero op (x == 0 && imm == 0) .onBusActionComplete
  | _ => .error (.illegalOp op)

/-! ### Z80 instructions -/

/-- A 16-bit operand, low byte first (20_memory.md R82, 46_injection.md R361). -/
def operand16 (mk : BitVec 16 → Instr) : List Byte → Except DecodeError (Instr × List Byte)
  | l :: h :: rest => .ok (mk (pair h l), rest)
  | _ => .error .truncated

/-- An 8-bit operand. -/
def operand8 (mk : Byte → Instr) : List Byte → Except DecodeError (Instr × List Byte)
  | n :: rest => .ok (mk n, rest)
  | [] => .error .truncated

/-- The rows of 46_injection.md R361 that begin with ED. -/
def decodeEd : List Byte → Except DecodeError (Instr × List Byte)
  | [] => .error .truncated
  | b :: rest =>
    match b.toNat with
    | 0x43 => operand16 .ldMemBc rest
    | 0x46 => .ok (.im0, rest)
    | 0x47 => .ok (.ldIA, rest)
    | 0x4F => .ok (.ldRA, rest)
    | 0x53 => operand16 .ldMemDe rest
    | 0x56 => .ok (.im1, rest)
    | 0x57 => .ok (.ldAI, rest)
    | 0x5E => .ok (.im2, rest)
    | 0x5F => .ok (.ldAR, rest)
    | _ => .error (.unlistedBytes b)

/-- The rows of 46_injection.md R361 that begin with DD. -/
def decodeDd : List Byte → Except DecodeError (Instr × List Byte)
  | [] => .error .truncated
  | b :: rest =>
    match b.toNat with
    | 0x21 => operand16 .ldIxNn rest
    | 0xE5 => .ok (.pushIx, rest)
    | _ => .error (.unlistedBytes b)

/-- The rows of 46_injection.md R361 that begin with FD. -/
def decodeFd : List Byte → Except DecodeError (Instr × List Byte)
  | [] => .error .truncated
  | b :: rest =>
    match b.toNat with
    | 0x21 => operand16 .ldIyNn rest
    | 0xE5 => .ok (.pushIy, rest)
    | _ => .error (.unlistedBytes b)

/-- The decoder of Z80 bytes, one line per row of 46_injection.md R361: the first instruction of the
bytes, and the bytes after it. -/
def decodeZ80 : List Byte → Except DecodeError (Instr × List Byte)
  | [] => .error .truncated
  | b :: rest =>
    match b.toNat with
    | 0x01 => operand16 .ldBcNn rest
    | 0x08 => .ok (.exAfAf, rest)
    | 0x11 => operand16 .ldDeNn rest
    | 0x18 => operand8 .jrD rest
    | 0x21 => operand16 .ldHlNn rest
    | 0x22 => operand16 .ldMemHl rest
    | 0x31 => operand16 .ldSpNn rest
    | 0x32 => operand16 .ldMemA rest
    | 0x3E => operand8 .ldAN rest
    | 0xC3 => operand16 .jpNn rest
    | 0xD9 => .ok (.exx, rest)
    | 0xDD => decodeDd rest
    | 0xED => decodeEd rest
    | 0xF1 => .ok (.popAf, rest)
    | 0xF3 => .ok (.di, rest)
    | 0xF5 => .ok (.pushAf, rest)
    | 0xFB => .ok (.ei, rest)
    | 0xFD => decodeFd rest
    | _ => .error (.unlistedBytes b)

/-! ### Encoding -/

/-- The encoded form of an instruction: a command word, or the bytes of a Z80 instruction. -/
inductive Encoded where
  | word (w : Word32)
  | bytes (bs : List Byte)
deriving DecidableEq, Repr

/-- A one-bit operand in the low bits of `imm`. -/
def bit16 (b : Bool) : BitVec 16 := if b then 1 else 0

/-- The breakpoint selector `t ++ idx` (30_encoding.md R104). -/
def bpSelector (t : BpTable) (idx : Nat) : Byte :=
  (if t.bit then 0x80#8 else 0#8) ||| (BitVec.ofNat 8 idx &&& 0x7F#8)

/-- The mode bits of a block transfer: `q = x[1]`, `i = x[0]` (30_encoding.md R105). -/
def blockMode (auto io : Bool) : Byte := (if auto then 2#8 else 0#8) ||| (if io then 1#8 else 0#8)

/-- The encoder, one line per row of spec/opcode_table.json (30_encoding.md R105, 46_injection.md
R361). -/
def encode : Instr → Encoded
  | .addSocket => .word (mkWord 0x01 0 0)
  | .enableSocket h e => .word (mkWord 0x02 h (bit16 e))
  | .setWaitOn h m i => .word (mkWord 0x03 h (bit16 m ||| (if i then 2#16 else 0#16)))
  | .setHold h d => .word (mkWord 0x04 h (bit16 d))
  | .requestAction h reason act => .word (mkWord 0x05 h (pair reason (act.setWidth 8)))
  | .requestBus h reason => .word (mkWord 0x06 h (pair reason 0))
  | .serviceTick => .word (mkWord 0x08 0 0)
  | .checkPending => .word (mkWord 0x09 0 0)
  | .startPending => .word (mkWord 0x0A 0 0)
  | .advancePending => .word (mkWord 0x0B 0 0)
  | .requestAndTake => .word (mkWord 0x0C 0 0)
  | .release => .word (mkWord 0x0D 0 0)
  | .blockRead auto io addr => .word (mkWord 0x0E (blockMode auto io) addr)
  | .blockWrite auto io addr => .word (mkWord 0x0F (blockMode auto io) addr)
  | .trkEnable e => .word (mkWord 0x10 0 (bit16 e))
  | .trkRequestGet => .word (mkWord 0x11 0 0)
  | .trkStartSet => .word (mkWord 0x12 0 0)
  | .trkStep => .word (mkWord 0x13 0 0)
  | .trkRun => .word (mkWord 0x14 0 0)
  | .trkHalt => .word (mkWord 0x15 0 0)
  | .bpSet t idx pc => .word (mkWord 0x18 (bpSelector t idx) pc)
  | .bpClear t idx => .word (mkWord 0x19 (bpSelector t idx) 0)
  | .bpGlobalEnable e => .word (mkWord 0x1A 0 (bit16 e))
  | .checkForBreak flags addr => .word (mkWord 0x1B flags addr)
  | .isPrefix b => .word (mkWord 0x1C 0 (pair 0 b))
  | .onWaitCycle => .word (mkWord 0x20 0 0)
  | .onBusActionComplete => .word (mkWord 0x21 0 0)
  | .pushAf => .bytes [0xF5]
  | .popAf => .bytes [0xF1]
  | .pushIx => .bytes [0xDD, 0xE5]
  | .pushIy => .bytes [0xFD, 0xE5]
  | .ldAR => .bytes [0xED, 0x5F]
  | .ldAI => .bytes [0xED, 0x57]
  | .ldRA => .bytes [0xED, 0x4F]
  | .ldIA => .bytes [0xED, 0x47]
  | .ldMemA nn => .bytes [0x32, lo nn, hi nn]
  | .ldMemHl nn => .bytes [0x22, lo nn, hi nn]
  | .ldMemDe nn => .bytes [0xED, 0x53, lo nn, hi nn]
  | .ldMemBc nn => .bytes [0xED, 0x43, lo nn, hi nn]
  | .ldAN n => .bytes [0x3E, n]
  | .ldBcNn nn => .bytes [0x01, lo nn, hi nn]
  | .ldDeNn nn => .bytes [0x11, lo nn, hi nn]
  | .ldHlNn nn => .bytes [0x21, lo nn, hi nn]
  | .ldSpNn nn => .bytes [0x31, lo nn, hi nn]
  | .ldIxNn nn => .bytes [0xDD, 0x21, lo nn, hi nn]
  | .ldIyNn nn => .bytes [0xFD, 0x21, lo nn, hi nn]
  | .exx => .bytes [0xD9]
  | .exAfAf => .bytes [0x08]
  | .im0 => .bytes [0xED, 0x46]
  | .im1 => .bytes [0xED, 0x56]
  | .im2 => .bytes [0xED, 0x5E]
  | .ei => .bytes [0xFB]
  | .di => .bytes [0xF3]
  | .jrD d => .bytes [0x18, d]
  | .jpNn nn => .bytes [0xC3, lo nn, hi nn]

/-- The Z80 bytes of an instruction; empty for a command (46_injection.md R361). -/
def z80Bytes (i : Instr) : List Byte :=
  match encode i with
  | .bytes bs => bs
  | .word _ => []

/-- The decoder of an encoded form: bytes must hold one Z80 instruction and nothing after it. -/
def decode : Encoded → Except DecodeError Instr
  | .word w => decodeCommand w
  | .bytes bs =>
    match decodeZ80 bs with
    | .ok (i, []) => .ok i
    | .ok (_, b :: _) => .error (.unlistedBytes b)
    | .error e => .error e

/-! ### The numbering of spec/opcode_table.json -/

/-- The bytes of a number, the first in its least significant bits, `n` of them. -/
def bytesOf : Nat → Nat → List Byte
  | 0, _ => []
  | n + 1, w => BitVec.ofNat 8 w :: bytesOf n (w / 256)

/-- The Z80 instruction that the first bytes of `w` hold, where it is at least `nbits` long. -/
def decodeTableZ80 (nbits w : Nat) : Option Instr :=
  match decodeZ80 (bytesOf 4 w) with
  | .ok (i, rest) => if nbits ≤ 8 * (4 - rest.length) then some i else none
  | .error _ => none

/-- The instruction that the decoder reads from an instruction whose bits are `w`, numbered as
spec/opcode_table.json numbers them: a command is one 32-bit word; a Z80 instruction is bytes, the
first in bits 7..0. A 32-bit pattern that is both a command word and a four-byte Z80 instruction is
read as the command (log entry 3). -/
def decodeTableWord (nbits w : Nat) : Option Instr :=
  if nbits = 32 then
    match decodeCommand (BitVec.ofNat 32 w) with
    | .ok i => some i
    | .error _ => decodeTableZ80 nbits w
  else decodeTableZ80 nbits w

end Sys2Proof
end

