-- ==== Sys2Proof/Machine/Flags.lean ====
section
/-! DEFINITION. The control flags and the cycle classes (30_encoding.md R100, R101), and the Z80 flag
computation that 46_injection.md R361 states. -/

namespace Sys2Proof.Machine

/-! ### Control flags (30_encoding.md R100) -/

def flagRd (f : CtrlFlags) : Bool := f.getLsbD 0
def flagWr (f : CtrlFlags) : Bool := f.getLsbD 1
def flagMreq (f : CtrlFlags) : Bool := f.getLsbD 2
def flagIorq (f : CtrlFlags) : Bool := f.getLsbD 3
def flagM1 (f : CtrlFlags) : Bool := f.getLsbD 4
def flagWait (f : CtrlFlags) : Bool := f.getLsbD 5

/-- The six flags of a sample: bits 7 and 6 are zero in every value the engine produces (R100, log entry 27). -/
def sixFlags (f : CtrlFlags) : CtrlFlags := f &&& 0x3F

/-- `f.M1 <- b`. -/
def setM1 (f : CtrlFlags) (b : Bool) : CtrlFlags := (f &&& 0xEF) ||| (if b then 0x10#8 else 0#8)

/-- `f.WAIT <- true`. -/
def setWait (f : CtrlFlags) : CtrlFlags := f ||| 0x20

/-- The flags a Z80 memory cycle presents, WAIT included (95_test_vectors.md section 0, log entry 35): opcode
fetch. -/
def flagsFetch : CtrlFlags := 0x35

/-- A memory read without M1. -/
def flagsRead : CtrlFlags := 0x25

/-- A memory write. -/
def flagsWrite : CtrlFlags := 0x26

/-! ### Cycle classes (30_encoding.md R101) -/

def validSettled (f : CtrlFlags) : Bool :=
  ((flagMreq f || flagIorq f) && (flagRd f || flagWr f)) || (flagIorq f && flagM1 f)
def isMem (f : CtrlFlags) : Bool := flagMreq f && !flagIorq f
def isIo (f : CtrlFlags) : Bool := flagIorq f && !flagMreq f && !flagM1 f
def isIrqAck (f : CtrlFlags) : Bool := flagIorq f && flagM1 f && !flagRd f && !flagWr f
def isRead (f : CtrlFlags) : Bool := (flagRd f && !flagWr f) || isIrqAck f
def isWrite (f : CtrlFlags) : Bool := flagWr f && !flagRd f
def isMemRead (f : CtrlFlags) : Bool := isMem f && flagRd f && !flagWr f
def isMemWrite (f : CtrlFlags) : Bool := isMem f && flagWr f && !flagRd f
def isFetch (f : CtrlFlags) : Bool := isMemRead f && flagM1 f

/-! ### Z80 flags (46_injection.md R361) -/

/-- The flags after `ld a,i`: P/V (bit 2) is IFF2; the other bits are not stated, so they are free (log
entry 17). -/
def flagsAfterLdAI (free : Byte) (iff2 : Bool) : Byte :=
  (free &&& 0xFB) ||| (if iff2 then 0x04#8 else 0#8)

/-- The flags after `ld a,r`: changed, in a way the spec does not state, so all of them are free
(log entry 17). -/
def flagsAfterLdAR (free : Byte) : Byte := free

end Sys2Proof.Machine
end

