-- ==== Sys2Proof/Machine/Operands.lean ====
section
/-! DEFINITION. Operand forms and codes: the arithmetic on register halves and on R that the injection
engine uses (46_injection.md), addresses of a block transfer (43_mastership_block_io.md R254), the
action operand of REQUEST_ACTION, and the numeric codes of 30_encoding.md R102 and R103. -/

namespace Sys2Proof.Machine

/-- `r7sub(x, k) = (x & 0x80) | ((x - k) & 0x7F)` (46_injection.md notation). -/
def r7sub (x k : Byte) : Byte := (x &&& 0x80) ||| ((x - k) &&& 0x7F)

/-- `r7add(x, k) = (x & 0x80) | ((x + k) & 0x7F)` (46_injection.md notation). -/
def r7add (x k : Byte) : Byte := (x &&& 0x80) ||| ((x + k) &&& 0x7F)

/-- The signed displacement of `jr d` (46_injection.md R361). -/
def signExtend16 (d : Byte) : BitVec 16 := d.signExtend 16

/-- The address of byte `k` of a transfer that starts at `a` (43_mastership_block_io.md R254). -/
def transferAddr (a : Addr) (k : Nat) : Addr := a + BitVec.ofNat 16 k

/-- The action field of REQUEST_ACTION (40_socket_table.md R144: 1 Reset, 2 NMI, 3 IRQ; 0 none). -/
def pulseOfCode (act : BitVec 2) : Option Pulse :=
  if act = 1 then some .reset else if act = 2 then some .nmi else if act = 3 then some .irq else none

/-- A Reset/NMI/IRQ request as a bus action. -/
def actionOfPulse : Pulse → BusAction
  | .reset => .reset
  | .nmi => .nmi
  | .irq => .irq

/-! ### Codes (30_encoding.md R102, R103) -/

def codeOfAction : BusAction → Nat
  | .none => 0
  | .reset => 1
  | .nmi => 2
  | .irq => 3
  | .busRequest => 4

def codeOfStatus : ActionStatus → Nat
  | .none => 0
  | .pending => 1
  | .asserted => 2

def codeOfOutcome : ActOutcome → Nat
  | .ok => 0
  | .busRequestFailed => 1
  | .actionTimedOut => 2

def codeOfTrackerState : TrackerState → Nat
  | .idle => 0
  | .awaiting => 1
  | .injecting => 2
  | .postInject => 3

def codeOfSeqKind : SeqKind → Nat
  | .none => 0
  | .get => 1
  | .set => 2

def codeOfTable : BpTable → Nat
  | .fast => 0
  | .slow => 1

/-- The return code of a result: Ok 0, Error 1, NoBusAck 2. -/
def codeOfRet : Ret → Nat
  | .ok _ => 0
  | .error _ => 1
  | .noBusAck => 2

/-- The error kind of a result: none 0; a NoBusAck's kind is HardwareTimeout (60_exceptions.md R417). -/
def kindOfRet : Ret → Nat
  | .ok _ => 0
  | .noBusAck => 1
  | .error .hardwareTimeout => 1
  | .error .protocolDecodeTimeout => 2
  | .error .resourceExhausted => 3
  | .error .diagnosticEvent => 4
  | .error .invalidArgument => 5
  | .error .busy => 6

/-- The 10-bit form of a decision, `tag[9:8] ++ byte[7:0]` (30_encoding.md R102). -/
def numericOfDecision : Decision → BitVec 10
  | .notDecoded => 0#2 ++ 0#8
  | .value b => 1#2 ++ b
  | .injectOpcode b => 2#2 ++ b

/-- The byte a decision supplies, if any (41_wait_service.md R178). -/
def byteOfDecision : Decision → Option Byte
  | .notDecoded => none
  | .value b => some b
  | .injectOpcode b => some b

/-- The reason the tracker uses for its mirror request: 0x01 MirrorMemory (30_encoding.md R103). -/
def mirrorReason : Byte := 0x01

/-- The interrupt mode as the snapshot's byte (10_state.md R34). -/
def imByte : IntMode → Byte
  | .im0 => 0
  | .im1 => 1
  | .im2 => 2

end Sys2Proof.Machine
end

