-- ==== Sys2Proof/Config.lean ====
section
/-! DEFINITION. What an implementation fixes (00_scope.md R9: the named parameters) and the free values:
constants with no body, which stand for every value the spec leaves open. Each is applied to a counter
of the state, so that two draws are independent; nothing can be proved of the value drawn. -/

namespace Sys2Proof

/-- The implementation parameters of 00_scope.md R9. The source fixes none of them, so the state carries
them as plain data and every statement holds for all of them (log entry 1). -/
structure Params where
  maxSockets : Nat
  settleRetries : Nat
  busackTimeoutUs : Nat
  actionTimeoutUs : Nat
  nFastBp : Nat
  nSlowBp : Nat
  serviceMode : ServiceMode
deriving DecidableEq, Repr

/-- The constraints column of 00_scope.md R9. -/
abbrev Params.ok (p : Params) : Prop :=
  1 ≤ p.maxSockets ∧ 1 ≤ p.settleRetries ∧ 1 ≤ p.nFastBp ∧ p.nFastBp ≤ p.nSlowBp

/-- The parameters that spec/95_test_vectors.md section 0 uses ("test choices, not values the document
gives"); `State.reset` has them. DESIGN CHOICE, log entry 1. -/
def Params.vectors : Params :=
  { maxSockets := 3, settleRetries := 4, busackTimeoutUs := 50, actionTimeoutUs := 1000,
    nFastBp := 4, nSlowBp := 16, serviceMode := .poll }

namespace Config

/-- What an address that no memory cell lists reads as. The spec gives memory no contents at the
block's reset (70_reset_and_hazards.md R453, 93_implementation_defined.md U12). DESIGN CHOICE, log
entry 2, unsafe. -/
def unlistedByte : Byte := 0

/-- How far time grows at a read of `now()` beyond the least 1 microsecond, once the list of time draws
is used up (00_scope.md R12, 93_implementation_defined.md U2). -/
opaque freeTime : Nat → Nat

/-- Whether BUSACK is seen at a sample (93_implementation_defined.md U3). -/
opaque freeBusack : Nat → Bool

/-- A byte from the I/O oracle or a floating bus (93_implementation_defined.md U5, U6, U7). -/
opaque freeByte : Nat → Byte

/-- The growth of the three diagnostic counters at a tick (41_wait_service.md R186, U9). -/
opaque freeDiag : Nat → Word32 × Word32 × Word32

/-- The control-line samples of a cycle before its lines settle (93_implementation_defined.md U8). -/
opaque freeSettle : Nat → List CtrlFlags

/-- What a collaborator's `on_wait_cycle` does in one call (93_implementation_defined.md U13). -/
opaque freeWaitReply : Nat → WaitReply

/-- What a collaborator's `on_bus_action_complete` does in one call (93_implementation_defined.md U13). -/
opaque freeDoneReply : Nat → List CbCommand

/-- The flag bits that `ld a,r` and `ld a,i` leave and 46_injection.md R361 does not state. -/
opaque freeFlags : Nat → Byte

/-- The Z80's registers after its own reset, but for the ones 70_reset_and_hazards.md R453 states. -/
opaque freeZ80 : Nat → Z80Regs

/-- What the Z80 does next when the bytes it has fetched begin no instruction the spec gives an effect to
(00_scope.md R8: the Z80 is an independent agent; log entry 12). -/
opaque freeMove : Nat → Z80Move

/-- Which agent moves next, and with what, once the agenda is used up (20_memory.md R89). -/
opaque freeTurn : Nat → Turn

end Config

end Sys2Proof
end

