-- ==== Sys2Proof/Machine/State.lean ====
section
/-! DEFINITION. The state of the block (10_state.md R20 to R37), and of the world it acts on (R40): the
external Z80 and its memory, the cycle the Z80 presents, the time source, and the inputs that the
environment, the collaborator sockets and the host supply. State is plain data; `State.reset` is the
state after start-of-day with only the tracker registered (70_reset_and_hazards.md R450 to R452). -/

namespace Sys2Proof.Machine

/-- Why a step ends in a fault: no step does. The block has no trap (60_exceptions.md R410), every address
exists (20_memory.md R83, R84), and the Z80 goes on whatever it fetches (log entry 12). -/
inductive Fault where
deriving DecidableEq, Repr

/-- Why a step is refused. -/
inductive Refusal where
  /-- The instruction has no meaning in the model. No arm of `exec` answers it; safe. -/
  | notModelled (mnemonic : String)
deriving DecidableEq, Repr

/-- One socket record (10_state.md R21). -/
structure Socket where
  registered : Bool
  enabled : Bool
  waitOnMemory : Bool
  waitOnIo : Bool
  /-- `hold_in_wait_requested` -/
  hold : Bool
  busMasterRequest : Option Byte
  actionRequest : Option (Pulse × Byte)
  durResetUs : Nat
  durNmiUs : Nat
  durIrqUs : Nat
  onWaitCycle : WaitCallback
  onDone : DoneCallback
deriving DecidableEq, Repr

/-- An unregistered slot (10_state.md R21, reset column). -/
def Socket.blank : Socket :=
  { registered := false, enabled := false, waitOnMemory := false, waitOnIo := false, hold := false,
    busMasterRequest := none, actionRequest := none, durResetUs := 0, durNmiUs := 0, durIrqUs := 0,
    onWaitCycle := .none, onDone := .none }

/-- The tracker's socket as start-of-day registers it (70_reset_and_hazards.md R451). -/
def Socket.trackerAtReset : Socket :=
  { Socket.blank with
    registered := true, waitOnMemory := true, onWaitCycle := .tracker, onDone := .tracker }

/-- BusActionState `A` (10_state.md R22). -/
structure BusActionState where
  status : ActionStatus
  action : BusAction
  socket : Nat
  reason : Byte
  startTime : Nat
  assertedAt : Nat
  durationUs : Nat
deriving DecidableEq, Repr

/-- `A` cleared: its reset value, and what `clear_action()` writes (42_bus_actions.md). -/
def BusActionState.cleared : BusActionState :=
  { status := .none, action := .none, socket := 0, reason := 0, startTime := 0, assertedAt := 0,
    durationUs := 0 }

/-- The record `W.cur` of the cycle being serviced (10_state.md R23). -/
structure CycleRecord where
  addr : Addr
  data : Byte
  flags : CtrlFlags
  merged : Decision
deriving DecidableEq, Repr

/-- WaitState `W` (10_state.md R23). -/
structure WaitState where
  asserted : Bool
  assertedAt : Nat
  hold : Bool
  cycleLength : Nat
  held : Bool
  cur : CycleRecord
deriving DecidableEq, Repr

/-- The counters (10_state.md R28), each a u32 that wraps. -/
structure Counters where
  total : Word32
  mreqRd : Word32
  mreqWr : Word32
  iorqRd : Word32
  iorqWr : Word32
  irqAck : Word32
  latSumUs : Word32
  latMaxUs : Word32
  latAvgUs : Word32
  decodeTimeout : Word32
  diagSpuriousBusrq : Word32
  diagIrqDuringBusack : Word32
  diagIrqWithoutWait : Word32
deriving DecidableEq, Repr

/-- All counters 0 (10_state.md R28). -/
def Counters.zero : Counters :=
  { total := 0, mreqRd := 0, mreqWr := 0, iorqRd := 0, iorqWr := 0, irqAck := 0, latSumUs := 0,
    latMaxUs := 0, latAvgUs := 0, decodeTimeout := 0, diagSpuriousBusrq := 0,
    diagIrqDuringBusack := 0, diagIrqWithoutWait := 0 }

/-- The engine's state (10_state.md R20 to R28). -/
structure Engine where
  sock : List Socket
  numSockets : Nat
  /-- `A` -/
  act : BusActionState
  /-- `W` -/
  wait : WaitState
  /-- `S.bus_under_direct_control` -/
  mastered : Bool
  waitGenMem : Bool
  waitGenIo : Bool
  skipRefreshPrimed : Bool
  lineReset : Bool
  lineNmi : Bool
  lineIrq : Bool
  lineBusrq : Bool
  /-- Whether the block drives the address, data and control lines (`drive_bus_lines`,
  43_mastership_block_io.md R251, R253). -/
  busDriven : Bool
  counters : Counters
deriving DecidableEq, Repr

/-- Memory: cells in rising order of address, none equal to what an unlisted address reads as
(20_memory.md R80; the form is `Memory.wf`). -/
abbrev Memory := List Host.Cell

/-- The tracker's state (10_state.md R29 to R36). -/
structure Tracker where
  socket : Nat
  state : TrackerState
  enabled : Bool
  disablePending : Bool
  hist0 : Bool
  hist1 : Bool
  stepInto : Bool
  holdArmed : Bool
  held : Bool
  haltAfter : Bool
  getRequested : Bool
  disturbed : Bool
  setRequest : Option Z80Registers
  seqKind : SeqKind
  seq : List Byte
  cursor : Nat
  wrOrdinal : Nat
  cap : List (Addr × Byte)
  boundaryPc : Addr
  setActive : Z80Registers
  pageOut : Bool
  regs : Z80Registers
  regsValid : Bool
  mirror : Memory
  mirrorValid : Bool
  lastBreak : Option (BpTable × Nat × Addr)
  breakMessage : String
deriving DecidableEq, Repr

/-- One breakpoint entry (10_state.md R37). -/
structure Breakpoint where
  enabled : Bool
  pc : Addr
  hitMessage : String
deriving DecidableEq, Repr

/-- A breakpoint entry at reset (10_state.md R37). -/
def Breakpoint.blank : Breakpoint := { enabled := false, pc := 0, hitMessage := "" }

/-- The breakpoint tables (10_state.md R37). -/
structure BpTables where
  fast : List Breakpoint
  slow : List Breakpoint
  globalEnable : Bool
deriving DecidableEq, Repr

/-- Who issues the command word at the port (30_encoding.md R105: the engine issues the two callback
words, not the host; log entry 20). -/
inductive Issuer where
  | host | engine
deriving DecidableEq, Repr

/-- The command port: the payload beside the word being executed, and the result of the last command
(30_encoding.md R104, 60_exceptions.md R417). -/
structure Port where
  issuer : Issuer
  payload : Payload
  result : Ret
deriving DecidableEq, Repr

/-- The Z80 agent: its registers, and the instruction it is in the middle of (the bytes it has received
for it and the number of writes it has made). -/
structure Z80 where
  regs : Z80Regs
  rx : List Byte
  wr : Nat
deriving DecidableEq, Repr

/-- A bus cycle the Z80 presents while WAIT is asserted (00_scope.md R7, 20_memory.md R85): the control
flags its lines settle to, the address, the data it writes, the samples its control lines give before
they settle, and whether it belongs to the instruction the Z80 agent is in. -/
structure Presented where
  flags : CtrlFlags
  addr : Addr
  data : Byte
  settle : List CtrlFlags
  byZ80 : Bool
deriving DecidableEq, Repr

/-- A call the engine made, or a command a callback issued, with what it returned: the model's record
of the callback contract (41_wait_service.md R176, 42_bus_actions.md R215, 40_socket_table.md R147). -/
inductive CallRecord where
  | waitCycle (h : Nat) (addr : Addr) (data : Byte) (flags : CtrlFlags)
  | complete (h : Nat) (action : BusAction) (reason : Byte) (outcome : ActOutcome)
  | command (h : Nat) (word : Word32) (ret : Ret)
deriving DecidableEq, Repr

/-- The world around the block (10_state.md R40) and the model's own records of it. The lists that end
in `Draws` are the values that the environment supplies next; when one is used up the values are free
(Config), counted by `draws` (log entries 7, 8, 26). -/
structure World where
  mem : Memory
  z80 : Z80
  /-- The cycle in a wait: WAIT is asserted exactly while there is one. -/
  present : Option Presented
  /-- The byte the Z80 received in the last read cycle that the engine released (20_memory.md R86). -/
  delivered : Option Byte
  /-- The last time `now()` gave. -/
  clock : Nat
  draws : Nat
  agenda : List Turn
  timeDraws : List Nat
  busackDraws : List Bool
  byteDraws : List Byte
  diagDraws : List (Word32 × Word32 × Word32)
  settleDraws : List (List CtrlFlags)
  /-- The I/O writes, newest first (20_memory.md R87). -/
  ioWrites : List (Addr × Byte)
  /-- The callback calls, newest first. -/
  calls : List CallRecord
deriving DecidableEq, Repr

/-- The whole machine. `cfg` never changes (00_scope.md R9). -/
structure State where
  cfg : Params
  eng : Engine
  trk : Tracker
  bp : BpTables
  port : Port
  world : World
deriving DecidableEq, Repr

namespace State

/-! ### Updates of one part -/

def withEng (s : State) (e : Engine) : State := { s with eng := e }
def withTrk (s : State) (t : Tracker) : State := { s with trk := t }
def withBp (s : State) (b : BpTables) : State := { s with bp := b }
def withPort (s : State) (p : Port) : State := { s with port := p }
def withWorld (s : State) (w : World) : State := { s with world := w }

end State

/-! ### Reset values -/

/-- The engine after start-of-day, with `n` slots and only the tracker registered (70_reset_and_hazards.md
R450, R451, R452). -/
def Engine.atReset (n : Nat) : Engine :=
  { sock := Socket.trackerAtReset :: List.replicate (n - 1) Socket.blank
    numSockets := 1
    act := BusActionState.cleared
    wait := { asserted := false, assertedAt := 0, hold := false, cycleLength := 0, held := false,
              cur := { addr := 0, data := 0, flags := 0, merged := .notDecoded } }
    mastered := false
    waitGenMem := false
    waitGenIo := false
    skipRefreshPrimed := false
    lineReset := false
    lineNmi := false
    lineIrq := false
    lineBusrq := false
    busDriven := false
    counters := Counters.zero }

/-- The 23 captures of a GET before any write (10_state.md R32). -/
def Tracker.noCaptures : List (Addr × Byte) := List.replicate 23 (0, 0)

/-- The tracker after start-of-day (10_state.md R29 to R36, 70_reset_and_hazards.md R450). The mirror's
contents are unspecified (R35): DESIGN CHOICE, log entry 4. -/
def Tracker.atReset : Tracker :=
  { socket := 0
    state := .idle
    enabled := false
    disablePending := false
    hist0 := true
    hist1 := true
    stepInto := false
    holdArmed := false
    held := false
    haltAfter := false
    getRequested := false
    disturbed := false
    setRequest := none
    seqKind := .none
    seq := []
    cursor := 0
    wrOrdinal := 0
    cap := Tracker.noCaptures
    boundaryPc := 0
    setActive := Z80Registers.zero 0xFF
    pageOut := false
    regs := Z80Registers.zero 0xFF
    regsValid := false
    mirror := []
    mirrorValid := false
    lastBreak := none
    breakMessage := "" }

/-- The breakpoint tables after start-of-day (10_state.md R37). -/
def BpTables.atReset (nFast nSlow : Nat) : BpTables :=
  { fast := List.replicate nFast Breakpoint.blank
    slow := List.replicate nSlow Breakpoint.blank
    globalEnable := false }

/-- The Z80's registers at the block's reset: "whatever they are" (70_reset_and_hazards.md R453, U12).
DESIGN CHOICE, log entry 5: as after the Z80's own reset where R453 states them, else 0. -/
def Z80Regs.atReset : Z80Regs :=
  { pc := 0, sp := 0, af := 0, bc := 0, de := 0, hl := 0, ix := 0, iy := 0, afAlt := 0, bcAlt := 0,
    deAlt := 0, hlAlt := 0, i := 0, r := 0, im := .im0, iff1 := false, iff2 := false,
    eiShadow := false }

/-- The world at the block's reset: the Z80 presents no cycle (95_test_vectors.md VR2), and no input is
listed. The time at start-of-day is any natural number (93_implementation_defined.md U2); that the clock
starts at 0 is the model's choice (DESIGN CHOICE, log entry 41). -/
def World.atReset : World :=
  { mem := []
    z80 := { regs := Z80Regs.atReset, rx := [], wr := 0 }
    present := none
    delivered := none
    clock := 0
    draws := 0
    agenda := []
    timeDraws := []
    busackDraws := []
    byteDraws := []
    diagDraws := []
    settleDraws := []
    ioWrites := []
    calls := [] }

/-- The machine right after start-of-day with parameters `p`, only the tracker registered
(70_reset_and_hazards.md R450 to R452, log entry 34). -/
def State.startOfDay (p : Params) : State :=
  { cfg := p
    eng := Engine.atReset p.maxSockets
    trk := Tracker.atReset
    bp := BpTables.atReset p.nFastBp p.nSlowBp
    port := { issuer := .host, payload := {}, result := .ok .none }
    world := World.atReset }

/-- The machine right after reset, with the parameters of spec/95_test_vectors.md (log entry 1). -/
def State.reset : State := State.startOfDay Params.vectors

end Sys2Proof.Machine
end

