-- ==== Sys2Proof/Machine/Ops.lean ====
section
/-! DEFINITION. The named operations every meaning is written over: memory (20_memory.md), the draws of
the environment (00_scope.md R12), the result channel (60_exceptions.md R417), the socket table and its
aggregates (40_socket_table.md R146), and the output lines (10_state.md R27).

The block takes no exception: "There is no unwind-based error mechanism" (60_exceptions.md R410). What
stands for taking one is `finish`: a command ends, its result is at the port, and the next one runs (log
entry 30). -/

namespace Sys2Proof.Machine

/-! ### Memory -/

/-- The byte at an address (20_memory.md R81); an unlisted one reads as `Config.unlistedByte`. -/
def Memory.read : Memory → Addr → Byte
  | [], _ => Config.unlistedByte
  | (k, b) :: m, a => if k = a.toNat then b else Memory.read m a

/-- Writes a byte at a key, keeping the canonical form. -/
def Memory.put : Memory → Nat → Byte → Memory
  | [], k, b => if b = Config.unlistedByte then [] else [(k, b)]
  | (j, c) :: m, k, b =>
    if k < j then (if b = Config.unlistedByte then (j, c) :: m else (k, b) :: (j, c) :: m)
    else if k = j then (if b = Config.unlistedByte then m else (k, b) :: m)
    else (j, c) :: Memory.put m k b

/-- Writes one byte (20_memory.md R81). -/
def Memory.write (m : Memory) (a : Addr) (b : Byte) : Memory := Memory.put m a.toNat b

/-- The canonical form from key `n` upward: keys strictly rising, below 65536, and no byte equal to
what an unlisted address reads as. -/
def Memory.wfFrom : Nat → Memory → Bool
  | _, [] => true
  | n, (k, b) :: m =>
    decide (n ≤ k) && decide (k < 65536) && decide (b ≠ Config.unlistedByte) && Memory.wfFrom (k + 1) m

/-- The canonical form. -/
def Memory.wf (m : Memory) : Bool := Memory.wfFrom 0 m

/-- `MemRead(addr, 1)` (00_scope.md R12). -/
def memRead (a : Addr) (s : State) : Byte := Memory.read s.world.mem a

/-- `MemWrite(addr, 1, v)` (00_scope.md R12). -/
def memWrite (a : Addr) (b : Byte) (s : State) : State :=
  s.withWorld { s.world with mem := Memory.write s.world.mem a b }

/-! ### Draws of the environment -/

/-- `now()`: a time that never decreases (00_scope.md R12). Each read takes the next listed growth (which
may be 0); when none is listed, time grows by at least 1 (70_reset_and_hazards.md R466). Log entries 8 and 25. -/
def now (s : State) : Nat × State :=
  match s.world.timeDraws with
  | d :: ds => (s.world.clock + d, s.withWorld { s.world with clock := s.world.clock + d, timeDraws := ds })
  | [] =>
    (s.world.clock + (Config.freeTime s.world.draws + 1),
     s.withWorld { s.world with
       clock := s.world.clock + (Config.freeTime s.world.draws + 1), draws := s.world.draws + 1 })

/-- `sample_busack()`: a draw of the Z80 agent (93_implementation_defined.md U3). -/
def sampleBusack (s : State) : Bool × State :=
  match s.world.busackDraws with
  | b :: bs => (b, s.withWorld { s.world with busackDraws := bs })
  | [] => (Config.freeBusack s.world.draws, s.withWorld { s.world with draws := s.world.draws + 1 })

/-- A byte from the I/O oracle or from a bus that no memory drives (93_implementation_defined.md U5, U6,
U7). -/
def drawByte (s : State) : Byte × State :=
  match s.world.byteDraws with
  | b :: bs => (b, s.withWorld { s.world with byteDraws := bs })
  | [] => (Config.freeByte s.world.draws, s.withWorld { s.world with draws := s.world.draws + 1 })

/-- The growth of the diagnostic counters at a tick (41_wait_service.md R186, log entry 8). -/
def drawDiag (s : State) : (Word32 × Word32 × Word32) × State :=
  match s.world.diagDraws with
  | d :: ds => (d, s.withWorld { s.world with diagDraws := ds })
  | [] => (Config.freeDiag s.world.draws, s.withWorld { s.world with draws := s.world.draws + 1 })

/-- The control-line samples of a cycle before they settle (70_reset_and_hazards.md R464). -/
def drawSettle (s : State) : List CtrlFlags × State :=
  match s.world.settleDraws with
  | f :: fs => (f, s.withWorld { s.world with settleDraws := fs })
  | [] => (Config.freeSettle s.world.draws, s.withWorld { s.world with draws := s.world.draws + 1 })

/-- `IoRead(port)`: a fresh draw each time (20_memory.md R88). -/
def ioRead (s : State) : Byte × State := drawByte s

/-- `IoWrite(port, v)`: an event recorded for the I/O oracle (20_memory.md R87). -/
def ioWrite (a : Addr) (b : Byte) (s : State) : State :=
  s.withWorld { s.world with ioWrites := (a, b) :: s.world.ioWrites }

/-- `sample_wait()`: WAIT is asserted while a cycle is presented (41_wait_service.md R187). -/
def sampleWait (s : State) : Bool := s.world.present.isSome

/-- Whether the Z80 is held in a wait, so that it cannot acknowledge a bus request
(70_reset_and_hazards.md R463). -/
def inWait (s : State) : Bool := s.world.present.isSome || s.eng.wait.asserted

/-- `sample_busack()` in a poll loop: never seen while the Z80 is held in a wait
(93_implementation_defined.md U3, log entry 11). -/
def pollBusack (s : State) : Bool × State :=
  let (b, s1) := sampleBusack s
  (b && !inWait s, s1)

/-- `sample_ctrl()`: the next sample before the lines settle (93_implementation_defined.md U8), and
afterwards the cycle's own flags (20_memory.md R85); no flag when no cycle is presented. The first
sample of a valid combination is the settled one, so it and every later sample are the cycle's own
flags (log entry 38). -/
def sampleCtrl (s : State) : CtrlFlags × State :=
  match s.world.present with
  | none => (0, s)
  | some c =>
    match c.settle with
    | f :: fs =>
      if validSettled (sixFlags f) then
        (sixFlags c.flags, s.withWorld { s.world with present := some { c with settle := [] } })
      else (sixFlags f, s.withWorld { s.world with present := some { c with settle := fs } })
    | [] => (sixFlags c.flags, s)

/-! ### The result channel -/

/-- Puts a command's result at the port (60_exceptions.md R417). -/
def State.answer (r : Ret) (s : State) : State := s.withPort { s.port with result := r }

/-- A command ends with a result, and the next one runs (60_exceptions.md R410). -/
def finish (p : Ret × State) : Host.Outcome State Fault Refusal := .next (p.2.answer p.1)

/-- `return Ok`. -/
def okNone : Ret := .ok .none

/-- `return Error(InvalidArgument)` (60_exceptions.md R415). -/
def invalid : Ret := .error .invalidArgument

/-- `return Error(Busy)` (60_exceptions.md R416). -/
def busy : Ret := .error .busy

/-! ### The socket table -/

/-- `sock[h]`; a slot beyond the table reads as an unregistered one (log entry 32). -/
def sockAt (s : State) (h : Nat) : Socket := s.eng.sock.getD h Socket.blank

/-- `sock[h] <- k`. -/
def setSock (h : Nat) (k : Socket) (s : State) : State :=
  s.withEng { s.eng with sock := s.eng.sock.set h k }

/-- The registered sockets, in registration order (10_state.md R20). -/
def Engine.registered (e : Engine) : List Socket := e.sock.take e.numSockets

/-- The OR of all registered sockets' hold requests (40_socket_table.md R146). -/
def Engine.holdWanted (e : Engine) : Bool := e.registered.any (fun k => k.hold)

/-- The wait enable for memory cycles (10_state.md R25). -/
def Engine.memWanted (e : Engine) : Bool :=
  e.registered.any (fun k => k.enabled && k.waitOnMemory) && !e.mastered

/-- The wait enable for I/O cycles (10_state.md R25). -/
def Engine.ioWanted (e : Engine) : Bool :=
  e.registered.any (fun k => k.enabled && k.waitOnIo) && !e.mastered

/-- `recompute_aggregates()` (40_socket_table.md R146). -/
def recompute (s : State) : State :=
  s.withEng { s.eng with
    wait := { s.eng.wait with hold := s.eng.holdWanted }
    waitGenMem := s.eng.memWanted
    waitGenIo := s.eng.ioWanted }

/-- `check_handle(h)` (40_socket_table.md). -/
def handleOk (h : Nat) (s : State) : Bool := decide (h < s.eng.numSockets)

/-- Writes the flags of a registered socket and recomputes the aggregates; the common shape of
ENABLE_SOCKET, SET_WAIT_ON and SET_HOLD (40_socket_table.md R141 to R143). -/
def changeSocket (h : Nat) (f : Socket → Socket) (s : State) : Ret × State :=
  if handleOk h s then (okNone, recompute (setSock h (f (sockAt s h)) s)) else (invalid, s)

/-- `enable_socket(h, e)` (40_socket_table.md R141). -/
def enableSocket (h : Nat) (e : Bool) (s : State) : Ret × State :=
  changeSocket h (fun k => { k with enabled := e }) s

/-- `set_wait_on(h, m, i)` (40_socket_table.md R142). -/
def setWaitOn (h : Nat) (m i : Bool) (s : State) : Ret × State :=
  changeSocket h (fun k => { k with waitOnMemory := m, waitOnIo := i }) s

/-- `set_hold(h, d)` (40_socket_table.md R143). -/
def setHold (h : Nat) (d : Bool) (s : State) : Ret × State :=
  changeSocket h (fun k => { k with hold := d }) s

/-- `request_action(h, act, reason)` (40_socket_table.md R144). -/
def requestAction (h : Nat) (act : BitVec 2) (reason : Byte) (s : State) : Ret × State :=
  if handleOk h s then
    match pulseOfCode act with
    | none => (invalid, s)
    | some p =>
      if (sockAt s h).actionRequest.isSome then (busy, s)
      else (okNone, setSock h { sockAt s h with actionRequest := some (p, reason) } s)
  else (invalid, s)

/-- `request_bus(h, reason)` (40_socket_table.md R145). -/
def requestBus (h : Nat) (reason : Byte) (s : State) : Ret × State :=
  if handleOk h s then
    if (sockAt s h).busMasterRequest.isSome then (busy, s)
    else (okNone, setSock h { sockAt s h with busMasterRequest := some reason } s)
  else (invalid, s)

/-! ### Output lines -/

/-- What the Z80's own reset does to the Z80: it starts at 0x0000 with interrupts disabled and interrupt
mode 0 (70_reset_and_hazards.md R453), in no instruction; its other registers are not stated, so they
are free. A cycle it was in is no longer its own (log entry 6). -/
def z80Reset (s : State) : State :=
  s.withWorld { s.world with
    z80 := { regs := { Config.freeZ80 s.world.draws with
               pc := 0, im := .im0, iff1 := false, iff2 := false, eiShadow := false }
             rx := [], wr := 0 }
    present := s.world.present.map (fun c => { c with byZ80 := false })
    draws := s.world.draws + 1 }

/-- Sets `S.line_*` of an action (42_bus_actions.md, `line_of`). -/
def setLine (a : BusAction) (v : Bool) (s : State) : State :=
  match a with
  | .none => s
  | .reset => s.withEng { s.eng with lineReset := v }
  | .nmi => s.withEng { s.eng with lineNmi := v }
  | .irq => s.withEng { s.eng with lineIrq := v }
  | .busRequest => s.withEng { s.eng with lineBusrq := v }

/-- `assert_line(line_of(a))`; asserting RESET resets the Z80 (70_reset_and_hazards.md R454, log entry 6);
asserting NMI or INT does nothing to the Z80 here (log entry 16). -/
def assertLine (a : BusAction) (s : State) : State :=
  match a with
  | .reset => z80Reset (setLine .reset true s)
  | a => setLine a true s

/-- `deassert_line(line_of(a))`. -/
def deassertLine (a : BusAction) (s : State) : State := setLine a false s

/-! ### Records -/

/-- Records a call of the callback contract. -/
def logCall (c : CallRecord) (s : State) : State :=
  s.withWorld { s.world with calls := c :: s.world.calls }

/-- The handles of the registered sockets, in registration order (20_memory.md R90). -/
def handles (s : State) : List Nat := List.range s.eng.numSockets

end Sys2Proof.Machine
end

