-- ==== Sys2Proof/Machine/SocketCmds.lean ====
section
/-! DEFINITION. The meanings of the socket table commands (40_socket_table.md R140 to R145). -/

namespace Sys2Proof.Machine

/-- `add_socket(info)` with the two callbacks given (40_socket_table.md R140). -/
def addSocket (info : SocketInfo) (onWait : WaitCallback) (onDone : DoneCallback) (s : State) :
    Ret × State :=
  let h := s.eng.numSockets
  if h = s.cfg.maxSockets then (.error .resourceExhausted, s)
  else
    let k : Socket :=
      { registered := true, enabled := info.enabled, waitOnMemory := info.waitOnMemory,
        waitOnIo := info.waitOnIo, hold := info.hold, busMasterRequest := none,
        actionRequest := none, durResetUs := info.durResetUs, durNmiUs := info.durNmiUs,
        durIrqUs := info.durIrqUs, onWaitCycle := onWait, onDone := onDone }
    let s1 := setSock h k s
    (.ok (.handle h), recompute (s1.withEng { s1.eng with numSockets := h + 1 }))

/-- ADD_SOCKET (40_socket_table.md R140). -/
def execAddSocket (s : State) : Host.Outcome State Fault Refusal :=
  let info := s.port.payload.info
  finish (addSocket info (.script info.waitReplies) (.script info.doneReplies) s)

/-- ENABLE_SOCKET (40_socket_table.md R141). -/
def execEnableSocket (h : BitVec 8) (e : Bool) (s : State) : Host.Outcome State Fault Refusal :=
  finish (enableSocket h.toNat e s)

/-- SET_WAIT_ON (40_socket_table.md R142). -/
def execSetWaitOn (h : BitVec 8) (m i : Bool) (s : State) : Host.Outcome State Fault Refusal :=
  finish (setWaitOn h.toNat m i s)

/-- SET_HOLD (40_socket_table.md R143). -/
def execSetHold (h : BitVec 8) (d : Bool) (s : State) : Host.Outcome State Fault Refusal :=
  finish (setHold h.toNat d s)

/-- REQUEST_ACTION (40_socket_table.md R144). -/
def execRequestAction (h : BitVec 8) (reason : Byte) (act : BitVec 2) (s : State) :
    Host.Outcome State Fault Refusal :=
  finish (requestAction h.toNat act reason s)

/-- REQUEST_BUS (40_socket_table.md R145). -/
def execRequestBus (h : BitVec 8) (reason : Byte) (s : State) : Host.Outcome State Fault Refusal :=
  finish (requestBus h.toNat reason s)

end Sys2Proof.Machine
end

