-- ==== Sys2Proof/Machine/Boundary.lean ====
section
/-! DEFINITION. Prefix classification and breakpoints (44_boundary_breakpoints.md R280, R286 to R289). -/

namespace Sys2Proof.Machine

/-- The table `t` (10_state.md R37). -/
def bpTable (t : BpTable) (b : BpTables) : List Breakpoint :=
  match t with
  | .fast => b.fast
  | .slow => b.slow

/-- The number of entries of table `t` (00_scope.md R9). -/
def bpSize (t : BpTable) (p : Params) : Nat :=
  match t with
  | .fast => p.nFastBp
  | .slow => p.nSlowBp

/-- Writes entry `i` of table `t`. -/
def bpWrite (t : BpTable) (i : Nat) (e : Breakpoint) (s : State) : State :=
  match t with
  | .fast => s.withBp { s.bp with fast := s.bp.fast.set i e }
  | .slow => s.withBp { s.bp with slow := s.bp.slow.set i e }

/-- BP_SET's effect (44_boundary_breakpoints.md R286). -/
def bpSet (t : BpTable) (i : Nat) (pc : Addr) (msg : String) (s : State) : Ret × State :=
  if i < bpSize t s.cfg then (okNone, bpWrite t i { enabled := true, pc := pc, hitMessage := msg } s)
  else (invalid, s)

/-- BP_CLEAR's effect: the entry's `pc` and `hit_message` are kept (44_boundary_breakpoints.md R287). -/
def bpClear (t : BpTable) (i : Nat) (s : State) : Ret × State :=
  if i < bpSize t s.cfg then
    (okNone, bpWrite t i { (bpTable t s.bp).getD i Breakpoint.blank with enabled := false } s)
  else (invalid, s)

/-- BP_GLOBAL_ENABLE's effect (44_boundary_breakpoints.md R288). -/
def bpGlobalEnable (e : Bool) (s : State) : Ret × State :=
  (okNone, s.withBp { s.bp with globalEnable := e })

/-- The first enabled entry with this pc, counting from index `i` (44_boundary_breakpoints.md R289: the
lowest matching index). -/
def findHit (addr : Addr) : Nat → List Breakpoint → Option (Nat × String)
  | _, [] => none
  | i, e :: es =>
    if e.enabled && e.pc == addr then some (i, e.hitMessage) else findHit addr (i + 1) es

/-- `check_for_break(addr, f)` (44_boundary_breakpoints.md R289). -/
def checkForBreak (addr : Addr) (f : CtrlFlags) (s : State) : Option (BpTable × Nat × String) :=
  if !(flagM1 f && flagRd f) then none
  else if s.eng.mastered then none
  else
    match findHit addr 0 s.bp.fast with
    | some (i, msg) => some (.fast, i, msg)
    | none =>
      if s.bp.globalEnable then
        match findHit addr 0 s.bp.slow with
        | some (i, msg) => some (.slow, i, msg)
        | none => none
      else none

/-- BP_SET (44_boundary_breakpoints.md R286). -/
def execBpSet (t : BpTable) (idx : Nat) (pc : Addr) (s : State) : Host.Outcome State Fault Refusal :=
  finish (bpSet t idx pc s.port.payload.msg s)

/-- BP_CLEAR (44_boundary_breakpoints.md R287). -/
def execBpClear (t : BpTable) (idx : Nat) (s : State) : Host.Outcome State Fault Refusal :=
  finish (bpClear t idx s)

/-- BP_GLOBAL_ENABLE (44_boundary_breakpoints.md R288). -/
def execBpGlobalEnable (e : Bool) (s : State) : Host.Outcome State Fault Refusal :=
  finish (bpGlobalEnable e s)

/-- CHECK_FOR_BREAK (44_boundary_breakpoints.md R289). -/
def execCheckForBreak (flags : CtrlFlags) (addr : Addr) (s : State) : Host.Outcome State Fault Refusal :=
  finish (.ok (.hit (checkForBreak addr flags s)), s)

/-- IS_PREFIX (44_boundary_breakpoints.md R280). -/
def execIsPrefix (b : Byte) (s : State) : Host.Outcome State Fault Refusal :=
  finish (.ok (.bool (prefixByte b)), s)

end Sys2Proof.Machine
end

