-- ==== Sys2Proof/Machine/Injection.lean ====
section
/-! DEFINITION. The GET and SET programs of the injection engine (46_injection.md R362 to R370): the
templates, the bytes patched while a GET runs, and what its captures decode to. -/

namespace Sys2Proof.Machine

/-! ### GET -/

/-- `get_template()`, 52 bytes; the patched ones hold 00 (46_injection.md R362). -/
def getTemplate : List Byte :=
  [0xF5, 0xED, 0x5F, 0x32, 0x00, 0x00, 0xED, 0x57, 0xF5, 0xED, 0x53, 0x00, 0x00] ++
  [0xED, 0x43, 0x00, 0x00, 0x22, 0x00, 0x00, 0xD9, 0x22, 0x00, 0x00] ++
  [0xED, 0x53, 0x00, 0x00, 0xED, 0x43, 0x00, 0x00, 0xD9, 0x08, 0xF5, 0x08] ++
  [0xDD, 0xE5, 0xFD, 0xE5, 0x3E, 0x00, 0xED, 0x4F, 0x31, 0x00, 0x00, 0xF1, 0x00, 0x00, 0x18, 0xCE]

/-- `T.cap[k]`; a capture not made has its reset value (46_injection.md R364). -/
def capAt (cap : List (Addr × Byte)) (k : Nat) : Addr × Byte := cap.getD k (0, 0)

/-- `SP0`, the Z80's SP at the boundary (46_injection.md R364). -/
def capSp0 (cap : List (Addr × Byte)) : BitVec 16 := (capAt cap 0).1 + 1

/-- `Rb`, R at the boundary, before the boundary fetch (46_injection.md R364). -/
def capRb (cap : List (Addr × Byte)) : Byte := r7sub (capAt cap 2).2 3

/-- Byte `k` of a running GET, patched from the captures already made (46_injection.md R364). -/
def getByte (cap : List (Addr × Byte)) (seq : List Byte) (k : Nat) : Byte :=
  match k with
  | 41 => r7sub (capRb cap) 3
  | 45 => lo (capSp0 cap - 2)
  | 46 => hi (capSp0 cap - 2)
  | 48 => (capAt cap 1).2
  | 49 => (capAt cap 0).2
  | k => seq.getD k 0

/-- `decode_get(cap, boundary_pc, im_prev)` (46_injection.md R366). -/
def decodeGet (cap : List (Addr × Byte)) (boundaryPc : Addr) (imPrev : Byte) : Z80Registers :=
  let d := fun k => (capAt cap k).2
  { pc := boundaryPc
    sp := (capAt cap 0).1 + 1
    af := pair (d 0) (d 1)
    r := r7sub (d 2) 3
    i := d 3
    iff := (d 4).getLsbD 2
    de := pair (d 6) (d 5)
    bc := pair (d 8) (d 7)
    hl := pair (d 10) (d 9)
    hlAlt := pair (d 12) (d 11)
    deAlt := pair (d 14) (d 13)
    bcAlt := pair (d 16) (d 15)
    afAlt := pair (d 17) (d 18)
    ix := pair (d 19) (d 20)
    iy := pair (d 21) (d 22)
    im := imPrev }

/-! ### SET -/

/-- The second byte of `im R.im` (46_injection.md R370: ED 46, ED 56 or ED 5E for 0, 1, 2). Other modes
never reach the template (45_tracker.md R312). -/
def imOpcode (im : Byte) : Byte := if im = 0 then 0x46 else if im = 1 then 0x56 else 0x5E

/-- `set_template(R)`, 51 bytes (46_injection.md R370). -/
def setTemplate (r : Z80Registers) : List Byte :=
  [0x01, lo r.bcAlt, hi r.bcAlt, 0x11, lo r.deAlt, hi r.deAlt, 0x21, lo r.hlAlt, hi r.hlAlt, 0xD9] ++
  [0x01, lo r.bc, hi r.bc, 0x11, lo r.de, hi r.de, 0x21, lo r.hl, hi r.hl] ++
  [0xDD, 0x21, lo r.ix, hi r.ix, 0xFD, 0x21, lo r.iy, hi r.iy] ++
  [0x31, lo (r.sp - 4), hi (r.sp - 4), 0xF1, lo r.afAlt, hi r.afAlt, 0x08] ++
  [0x3E, r.i, 0xED, 0x47, 0xED, imOpcode r.im, 0x3E, r7sub r.r 3, 0xED, 0x4F] ++
  [0xF1, lo r.af, hi r.af, if r.iff then 0xFB else 0xF3, 0xC3, lo r.pc, hi r.pc]

/-- The next byte of the running injection (46_injection.md R380). -/
def nextInjectByte (t : Tracker) : Byte :=
  match t.seqKind with
  | .get => getByte t.cap t.seq t.cursor
  | .set | .none => t.seq.getD t.cursor 0

/-! ### The Z80 under an injection (46_injection.md R361, R365, R371) -/

/-- The snapshot of a Z80's registers (10_state.md R34; `iff` is IFF2, 46_injection.md R366). -/
def snapshotOf (z : Z80Regs) : Z80Registers :=
  { pc := z.pc, sp := z.sp, af := z.af, bc := z.bc, de := z.de, hl := z.hl, ix := z.ix, iy := z.iy,
    afAlt := z.afAlt, bcAlt := z.bcAlt, deAlt := z.deAlt, hlAlt := z.hlAlt, i := z.i, r := z.r,
    im := imByte z.im, iff := z.iff2 }

end Sys2Proof.Machine
end

