-- ==== Sys2Proof/Machine/Mastership.lean ====
section
/-! DEFINITION. Direct bus mastership and block transfers (43_mastership_block_io.md R250 to R256). -/

namespace Sys2Proof.Machine

/-- The poll loop of R250 and of 42_bus_actions.md R216: it ends when BUSACK is seen or when the time
since `t0` reaches `BUSACK_TIMEOUT_US`. `fuel` bounds the reads of `now()`: time grows at every read
that no listed draw answers (70_reset_and_hazards.md R466), so `busackFuel` of them always suffice (log
entry 13). -/
def busackLoop : Nat → Nat → State → Bool × State
  | 0, _, s => (false, s)
  | fuel + 1, t0, s =>
    match pollBusack s with
    | (true, s1) => (true, s1)
    | (false, s1) =>
      match now s1 with
      | (t, s2) => if s2.cfg.busackTimeoutUs ≤ t - t0 then (false, s2) else busackLoop fuel t0 s2

/-- Enough reads of `now()` for the poll loop to end (70_reset_and_hazards.md R466). -/
def busackFuel (s : State) : Nat := s.world.timeDraws.length + s.cfg.busackTimeoutUs + 1

/-- Asserts BUSRQ and polls for BUSACK (43_mastership_block_io.md R250, 42_bus_actions.md R216). -/
def awaitBusack (s : State) : Bool × State :=
  let s1 := assertLine .busRequest s
  match now s1 with
  | (t0, s2) => busackLoop (busackFuel s2) t0 s2

/-- `drive_bus_lines(b)` (43_mastership_block_io.md R251, R253). -/
def driveBusLines (b : Bool) (s : State) : State := s.withEng { s.eng with busDriven := b }

/-- `S.bus_under_direct_control <- b`, with the recomputation that follows it (10_state.md R25). -/
def setMastered (b : Bool) (s : State) : State := recompute (s.withEng { s.eng with mastered := b })

/-- `take_mastership_acked()` (43_mastership_block_io.md R251). -/
def takeMastership (s : State) : State := driveBusLines true (setMastered true s)

/-- `release_mastership()` (43_mastership_block_io.md R253). Nothing clears the latch (log entry 24). -/
def releaseMastership (s : State) : State :=
  let s1 := driveBusLines false s
  let s2 := s1.withEng { s1.eng with skipRefreshPrimed := true }
  setMastered false (deassertLine .busRequest s2)

/-- `request_and_take()` (43_mastership_block_io.md R250). -/
def requestAndTake (s : State) : Ret × State :=
  if s.eng.mastered || s.eng.act.status != .none then (busy, s)
  else
    match awaitBusack s with
    | (true, s1) => (okNone, takeMastership s1)
    | (false, s1) => (.noBusAck, deassertLine .busRequest s1)

/-- `release()` (43_mastership_block_io.md R252). -/
def releaseBus (s : State) : Ret × State :=
  if s.eng.mastered then (okNone, releaseMastership s) else (invalid, s)

/-- The bytes of a block read from its `k`-th on, `n` of them (43_mastership_block_io.md R254, R255). -/
def readBytes (io : Bool) (addr : Addr) : Nat → Nat → State → List Byte × State
  | _, 0, s => ([], s)
  | k, n + 1, s =>
    let (b, s1) := if io then ioRead s else (memRead (transferAddr addr k) s, s)
    let (bs, s2) := readBytes io addr (k + 1) n s1
    (b :: bs, s2)

/-- A block write of `buf` whose first byte is the `k`-th of the transfer (43_mastership_block_io.md R254,
R256). -/
def writeBytes (io : Bool) (addr : Addr) : Nat → List Byte → State → State
  | _, [], s => s
  | k, b :: bs, s =>
    writeBytes io addr (k + 1) bs
      (if io then ioWrite (transferAddr addr k) b s else memWrite (transferAddr addr k) b s)

/-- The common shape of R255 and R256: the length check, then the transfer under the mastership the
engine has, or under one it takes and gives back. A transfer of no byte is Ok first (log entry 31). -/
def blockTransfer (len : Nat) (auto : Bool) (atZero : Ret) (body : State → Ret × State) (s : State) :
    Ret × State :=
  if 65536 < len then (invalid, s)
  else if len = 0 then (atZero, s)
  else if s.eng.mastered then body s
  else if auto then
    match requestAndTake s with
    | (.ok _, s1) =>
      match body s1 with
      | (r, s2) => (r, releaseMastership s2)
    | (r, s1) => (r, s1)
  else (invalid, s)

/-- `block_read(addr, len, io, auto)` (43_mastership_block_io.md R255). -/
def blockRead (addr : Addr) (len : Nat) (io auto : Bool) (s : State) : Ret × State :=
  blockTransfer len auto (.ok (.buffer []))
    (fun s => match readBytes io addr 0 len s with | (bs, s1) => (.ok (.buffer bs), s1)) s

/-- `block_write(addr, buf, len, io, auto)` (43_mastership_block_io.md R256). -/
def blockWrite (addr : Addr) (buf : List Byte) (io auto : Bool) (s : State) : Ret × State :=
  blockTransfer buf.length auto okNone (fun s => (okNone, writeBytes io addr 0 buf s)) s

/-- REQUEST_AND_TAKE (43_mastership_block_io.md R250). -/
def execRequestAndTake (s : State) : Host.Outcome State Fault Refusal := finish (requestAndTake s)

/-- RELEASE (43_mastership_block_io.md R252). -/
def execRelease (s : State) : Host.Outcome State Fault Refusal := finish (releaseBus s)

/-- BLOCK_READ (43_mastership_block_io.md R255). -/
def execBlockRead (auto io : Bool) (addr : Addr) (s : State) : Host.Outcome State Fault Refusal :=
  finish (blockRead addr s.port.payload.len io auto s)

/-- BLOCK_WRITE (43_mastership_block_io.md R256). -/
def execBlockWrite (auto io : Bool) (addr : Addr) (s : State) : Host.Outcome State Fault Refusal :=
  finish (blockWrite addr s.port.payload.buf io auto s)

end Sys2Proof.Machine
end

