-- ==== Sys2Proof/Machine/Tracker.lean ====
section
/-! DEFINITION. The Register/Step Tracker (45_tracker.md R310 to R330, 46_injection.md R380, R381): its host
commands, its state machine, and its two callbacks. -/

namespace Sys2Proof.Machine

/-- `T.hist[1] <- T.hist[0]; T.hist[0] <- is_prefix(rb)` (44_boundary_breakpoints.md R283). -/
def recordFetch (rb : Byte) (s : State) : State :=
  s.withTrk { s.trk with hist1 := s.trk.hist0, hist0 := prefixByte rb }

/-- `release_hold()` (45_tracker.md R313). -/
def releaseHold (s : State) : State :=
  if s.trk.held then
    let s1 := (setHold s.trk.socket false s).2
    s1.withTrk { s1.trk with held := false }
  else s

/-- `do_disable()` (45_tracker.md R317). -/
def doDisable (s : State) : State :=
  let s1 := releaseHold s
  let s2 := s1.withTrk { s1.trk with
    holdArmed := false, stepInto := false, haltAfter := false, pageOut := false,
    seqKind := .none, seq := [], cursor := 0, wrOrdinal := 0,
    getRequested := false, setRequest := none, disablePending := false, enabled := false,
    state := .idle }
  let s3 := (enableSocket s2.trk.socket false s2).2
  (setWaitOn s3.trk.socket false false s3).2

/-! ### Host commands -/

/-- `T.hist <- [true, true]` (44_boundary_breakpoints.md R284). -/
def resetHistory (s : State) : State := s.withTrk { s.trk with hist0 := true, hist1 := true }

/-- `trk_enable(e)` (45_tracker.md R310). The history is set "at every TRK_ENABLE with e = 1"
(44_boundary_breakpoints.md R284), so also where R310's pseudocode returns early, for a deferred disable
and for a tracker that is on: R284 is one of the rules that state the decision on the history in full
(92_eei_decisions.md D22), and R310 is not (DEDUCED, log entry 37). -/
def trkEnable (e : Bool) (s : State) : Ret × State :=
  if e then
    let s0 := resetHistory s
    if s.trk.disablePending then (okNone, s0.withTrk { s0.trk with disablePending := false })
    else if s.trk.enabled then (okNone, s0)
    else
      let s1 := s0.withTrk { s0.trk with enabled := true, state := .idle, getRequested := true }
      let s2 := (setWaitOn s1.trk.socket true false s1).2
      (okNone, (enableSocket s2.trk.socket true s2).2)
  else
    if !s.trk.enabled then (okNone, s)
    else if s.trk.state = .injecting then (okNone, s.withTrk { s.trk with disablePending := true })
    else (okNone, doDisable s)

/-- TRK_REQUEST_GET's effect (45_tracker.md R311). -/
def trkRequestGet (s : State) : Ret × State :=
  if s.trk.enabled then (okNone, s.withTrk { s.trk with getRequested := true }) else (invalid, s)

/-- `start_set_sequence(R)` (45_tracker.md R312). -/
def trkStartSet (r : Z80Registers) (s : State) : Ret × State :=
  if !s.trk.enabled then (invalid, s)
  else if r.im = 0 ∨ r.im = 1 ∨ r.im = 2 then
    (okNone, s.withTrk { s.trk with setRequest := some r })
  else (invalid, s)

/-- TRK_STEP's effect (45_tracker.md R313). -/
def trkStep (s : State) : Ret × State :=
  if s.trk.enabled then (okNone, releaseHold (s.withTrk { s.trk with stepInto := true }))
  else (invalid, s)

/-- TRK_RUN's effect (45_tracker.md R314). -/
def trkRun (s : State) : Ret × State :=
  if s.trk.enabled then
    (okNone, releaseHold (s.withTrk { s.trk with stepInto := false, holdArmed := false }))
  else (invalid, s)

/-- TRK_HALT's effect (45_tracker.md R315). -/
def trkHalt (s : State) : Ret × State :=
  if s.trk.enabled then (okNone, s.withTrk { s.trk with stepInto := true }) else (invalid, s)

/-! ### Injection -/

/-- `start_injection(GET, addr, hit)` and `start_injection(SET, addr, hit)` (45_tracker.md R318); the
request decides the kind. -/
def startInjection (addr : Addr) (hit : Bool) (s : State) : State :=
  let t := s.trk
  let t1 :=
    match t.setRequest with
    | some r => { t with seqKind := .set, setActive := r, setRequest := none, seq := setTemplate r }
    | none => { t with seqKind := .get, getRequested := false, seq := getTemplate }
  s.withTrk { t1 with
    cursor := 0, wrOrdinal := 0, cap := Tracker.noCaptures, boundaryPc := addr,
    haltAfter := t.stepInto || hit, disturbed := false, pageOut := true, state := .injecting }

/-- Whether the injection that just ended was what its template assumes: undisturbed, with 23 writes for
a GET and none for a SET (45_tracker.md R324). -/
def injectionOk (t : Tracker) : Bool :=
  !t.disturbed && ((t.seqKind == .get && t.wrOrdinal == 23) || (t.seqKind == .set && t.wrOrdinal == 0))

/-- The snapshot after an injection (45_tracker.md R324). -/
def finishRegs (t : Tracker) : Tracker :=
  if injectionOk t then
    match t.seqKind with
    | .get => { t with regs := decodeGet t.cap t.boundaryPc t.regs.im, regsValid := true }
    | .set => { t with regs := t.setActive, getRequested := false, regsValid := true }
    | .none => { t with regsValid := true }
  else { t with regsValid := false }

/-- `finish_injection()`, the PostInject state (45_tracker.md R324). -/
def finishInjection (s : State) : State :=
  let t1 := finishRegs { s.trk with state := .postInject, pageOut := false }
  let s1 := s.withTrk { t1 with seqKind := .none, seq := [], cursor := 0 }
  if s1.trk.disablePending then doDisable s1
  else
    s1.withTrk { s1.trk with
      holdArmed := s1.trk.holdArmed || s1.trk.haltAfter, state := .awaiting }

/-- `request_mirror()`: REQUEST_BUS with the tracker's reason, whose Busy result is ignored
(46_injection.md R381). -/
def requestMirror (s : State) : State := (requestBus s.trk.socket mirrorReason s).2

/-- The capture of a write cycle (46_injection.md R363, R380). -/
def captureWrite (addr : Addr) (data : Byte) (t : Tracker) : Tracker :=
  { t with
    cap := if t.seqKind == .get && decide (t.wrOrdinal < 23) then t.cap.set t.wrOrdinal (addr, data)
           else t.cap
    wrOrdinal := t.wrOrdinal + 1 }

/-- `inject_step(addr, data, f)` (46_injection.md R380). -/
def injectStep (addr : Addr) (data : Byte) (f : CtrlFlags) (s : State) : Decision × State :=
  if isMemRead f then
    let b := nextInjectByte s.trk
    let s1 := s.withTrk { s.trk with cursor := s.trk.cursor + 1 }
    let s2 := if flagM1 f then recordFetch b s1 else s1
    let s3 := if s2.trk.cursor = s2.trk.seq.length then finishInjection s2 else s2
    (.injectOpcode b, s3)
  else if isMemWrite f then
    let s1 := s.withTrk (captureWrite addr data s.trk)
    let s2 := if s1.trk.seqKind == .get && s1.trk.wrOrdinal == 23 then requestMirror s1 else s1
    (.notDecoded, s2)
  else (.notDecoded, s)

/-- `T.last_break` and `T.break_message` of a hit (45_tracker.md R321). -/
def noteBreak (addr : Addr) (hit : Option (BpTable × Nat × String)) (s : State) : State :=
  match hit with
  | some (t, i, msg) => s.withTrk { s.trk with lastBreak := some (t, i, addr), breakMessage := msg }
  | none => s

/-- The hold of a halted CPU, taken at a boundary fetch (45_tracker.md R321, R331). -/
def takeHold (data : Byte) (s : State) : State :=
  let s1 := (setHold s.trk.socket true (s.withTrk { s.trk with holdArmed := false })).2
  let s2 := recordFetch data (s1.withTrk { s1.trk with held := true })
  s2.withTrk { s2.trk with state := .awaiting }

/-- `boundary_step(addr, data, f)` (45_tracker.md R321). -/
def boundaryStep (addr : Addr) (data : Byte) (f : CtrlFlags) (s : State) : Decision × State :=
  let boundary := !s.trk.hist0
  let hit := checkForBreak addr f s
  let s1 := noteBreak addr hit s
  if !boundary then (.notDecoded, recordFetch data s1)
  else if s1.trk.holdArmed then (.notDecoded, takeHold data s1)
  else if s1.trk.setRequest.isSome || s1.trk.getRequested || s1.trk.stepInto || hit.isSome then
    injectStep addr data f (startInjection addr hit.isSome s1)
  else
    let s2 := recordFetch data s1
    (.notDecoded, s2.withTrk { s2.trk with state := .awaiting })

/-! ### Callbacks -/

/-- The tracker's `on_wait_cycle(addr, data, f)` (45_tracker.md R320). -/
def trackerOnWaitCycle (addr : Addr) (data : Byte) (f : CtrlFlags) (s : State) : Decision × State :=
  if !s.trk.enabled || !isMem f then (.notDecoded, s)
  else if s.trk.state = .injecting then injectStep addr data f s
  else if !isFetch f then (.notDecoded, s)
  else boundaryStep addr data f s

/-- `mirror_memory()` (45_tracker.md R330): the block read of all 65,536 addresses succeeds exactly while
the engine masters the bus (43_mastership_block_io.md R255); its buffer is memory itself (log entry 23). -/
def mirrorMemory (s : State) : State :=
  if s.eng.mastered then s.withTrk { s.trk with mirror := s.world.mem, mirrorValid := true }
  else s.withTrk { s.trk with mirrorValid := false }

/-- A completed Reset ends a running injection (45_tracker.md R328). -/
def abortInjection (s : State) : State :=
  if s.trk.state = .injecting then
    let s1 := s.withTrk { s.trk with pageOut := false, seqKind := .none, seq := [], cursor := 0 }
    if s1.trk.disablePending then doDisable s1 else s1.withTrk { s1.trk with state := .awaiting }
  else s

/-- The tracker's `on_bus_action_complete(action, reason, outcome)` (45_tracker.md R328). -/
def trackerOnComplete (action : BusAction) (reason : Byte) (outcome : ActOutcome) (s : State) : State :=
  match action with
  | .none => s
  | .reset =>
    let s1 := abortInjection s
    let s2 := resetHistory s1
    releaseHold (s2.withTrk { s2.trk with regsValid := false, holdArmed := false })
  | .nmi | .irq =>
    if s.trk.state = .injecting then s.withTrk { s.trk with disturbed := true } else s
  | .busRequest =>
    if reason = mirrorReason then
      if outcome = .ok then mirrorMemory s else s.withTrk { s.trk with mirrorValid := false }
    else s

/-! ### Meanings -/

/-- TRK_ENABLE (45_tracker.md R310). -/
def execTrkEnable (e : Bool) (s : State) : Host.Outcome State Fault Refusal := finish (trkEnable e s)

/-- TRK_REQUEST_GET (45_tracker.md R311). -/
def execTrkRequestGet (s : State) : Host.Outcome State Fault Refusal := finish (trkRequestGet s)

/-- TRK_START_SET (45_tracker.md R312). -/
def execTrkStartSet (s : State) : Host.Outcome State Fault Refusal :=
  finish (trkStartSet s.port.payload.regs s)

/-- TRK_STEP (45_tracker.md R313). -/
def execTrkStep (s : State) : Host.Outcome State Fault Refusal := finish (trkStep s)

/-- TRK_RUN (45_tracker.md R314). -/
def execTrkRun (s : State) : Host.Outcome State Fault Refusal := finish (trkRun s)

/-- TRK_HALT (45_tracker.md R315). -/
def execTrkHalt (s : State) : Host.Outcome State Fault Refusal := finish (trkHalt s)

/-- ON_WAIT_CYCLE: refused from the host (30_encoding.md R105); issued by the engine it is the tracker's
callback (45_tracker.md R320) on the payload's cycle. -/
def execOnWaitCycle (s : State) : Host.Outcome State Fault Refusal :=
  match s.port.issuer with
  | .host => finish (invalid, s)
  | .engine =>
    match trackerOnWaitCycle s.port.payload.addr s.port.payload.data s.port.payload.flags s with
    | (d, s1) => finish (.ok (.decision d), s1)

/-- ON_BUS_ACTION_COMPLETE: refused from the host (30_encoding.md R105); issued by the engine it is the
tracker's callback (45_tracker.md R328) on the payload's action. -/
def execOnBusActionComplete (s : State) : Host.Outcome State Fault Refusal :=
  match s.port.issuer with
  | .host => finish (invalid, s)
  | .engine =>
    finish (okNone,
      trackerOnComplete s.port.payload.action s.port.payload.reason s.port.payload.outcome s)

end Sys2Proof.Machine
end

