-- ==== Sys2Proof/Machine/Callbacks.lean ====
section
/-! DEFINITION. The callback contract: the commands a socket may issue from inside a callback
(40_socket_table.md R147), the call of one socket, the fan-out of a wait cycle (41_wait_service.md R176,
R177) and the completion callbacks of an action (42_bus_actions.md R215). -/

namespace Sys2Proof.Machine

/-- A command a callback issues (40_socket_table.md R147): the listed ones run; block transfers run only
where `mayTransfer` (inside a completion callback of a BusRequest with outcome Ok); every other command
is refused and changes nothing (log entry 19). -/
def callbackCommand (mayTransfer : Bool) (c : CbCommand) (s : State) : Ret × State :=
  match decodeCommand c.word with
  | .error _ => (invalid, s)
  | .ok i =>
    match i with
    | .enableSocket h e => enableSocket h.toNat e s
    | .setWaitOn h m io => setWaitOn h.toNat m io s
    | .setHold h d => setHold h.toNat d s
    | .requestAction h reason act => requestAction h.toNat act reason s
    | .requestBus h reason => requestBus h.toNat reason s
    | .bpSet t idx pc => bpSet t idx pc c.msg s
    | .bpClear t idx => bpClear t idx s
    | .bpGlobalEnable e => bpGlobalEnable e s
    | .checkForBreak flags addr => (.ok (.hit (checkForBreak addr flags s)), s)
    | .blockRead auto io addr => if mayTransfer then blockRead addr c.len io auto s else (invalid, s)
    | .blockWrite auto io addr => if mayTransfer then blockWrite addr c.buf io auto s else (invalid, s)
    | _ => (invalid, s)

/-- The commands of one callback of socket `h`, in order, each with its result recorded. -/
def runCallbackCommands (h : Nat) (mayTransfer : Bool) : List CbCommand → State → State
  | [], s => s
  | c :: cs, s =>
    match callbackCommand mayTransfer c s with
    | (r, s1) => runCallbackCommands h mayTransfer cs (logCall (.command h c.word r) s1)

/-! ### on_wait_cycle -/

/-- What socket `h`'s `on_wait_cycle` does in this call: the next of its replies, or, when none is given,
a free one (93_implementation_defined.md U13, log entry 9). -/
def nextWaitReply (h : Nat) (s : State) : WaitReply × State :=
  match (sockAt s h).onWaitCycle with
  | .script (r :: rs) => (r, setSock h { sockAt s h with onWaitCycle := .script rs } s)
  | .script [] =>
    (Config.freeWaitReply s.world.draws, s.withWorld { s.world with draws := s.world.draws + 1 })
  | .none | .tracker => ({}, s)

/-- `call sock[h].on_wait_cycle(addr, data, f)`. -/
def callWait (h : Nat) (addr : Addr) (data : Byte) (f : CtrlFlags) (s : State) : Decision × State :=
  let s0 := logCall (.waitCycle h addr data f) s
  if (sockAt s0 h).onWaitCycle = .tracker then trackerOnWaitCycle addr data f s0
  else
    match nextWaitReply h s0 with
    | (r, s1) => (r.decision, runCallbackCommands h false r.cmds s1)

/-- The fan-out over the given handles: every enabled socket is called, in order, with the same cycle;
`enabled` is read when a socket's turn comes (41_wait_service.md R176). -/
def fanOut (addr : Addr) (data : Byte) (f : CtrlFlags) : List Nat → State → List Decision × State
  | [], s => ([], s)
  | h :: hs, s =>
    let (d, s1) := if (sockAt s h).enabled then callWait h addr data f s else (.notDecoded, s)
    let (ds, s2) := fanOut addr data f hs s1
    (d :: ds, s2)

/-- The lowest handle's InjectOpcode (41_wait_service.md R177). -/
def firstInject : List Decision → Decision
  | [] => .notDecoded
  | .injectOpcode b :: _ => .injectOpcode b
  | .notDecoded :: ds | .value _ :: ds => firstInject ds

/-- The lowest handle's Value (41_wait_service.md R177). -/
def firstValue : List Decision → Decision
  | [] => .notDecoded
  | .value b :: _ => .value b
  | .notDecoded :: ds | .injectOpcode _ :: ds => firstValue ds

/-- The merge of a fan-out: an InjectOpcode beats a Value, and the lowest handle wins within a kind
(41_wait_service.md R177). -/
def mergeDecisions (ds : List Decision) : Decision :=
  match firstInject ds with
  | .notDecoded => firstValue ds
  | d => d

/-! ### on_bus_action_complete -/

/-- What socket `h`'s `on_bus_action_complete` does in this call, as `nextWaitReply`. -/
def nextDoneReply (h : Nat) (s : State) : List CbCommand × State :=
  match (sockAt s h).onDone with
  | .script (r :: rs) => (r, setSock h { sockAt s h with onDone := .script rs } s)
  | .script [] =>
    (Config.freeDoneReply s.world.draws, s.withWorld { s.world with draws := s.world.draws + 1 })
  | .none | .tracker => ([], s)

/-- `call sock[h].on_bus_action_complete(action, reason, outcome)`. -/
def callDone (action : BusAction) (reason : Byte) (outcome : ActOutcome) (h : Nat) (s : State) : State :=
  let s0 := logCall (.complete h action reason outcome) s
  if (sockAt s0 h).onDone = .tracker then trackerOnComplete action reason outcome s0
  else
    match nextDoneReply h s0 with
    | (cmds, s1) =>
      runCallbackCommands h (decide (action = .busRequest ∧ outcome = .ok)) cmds s1

/-- Calls the given sockets' completion callbacks, in order. -/
def completeAll (action : BusAction) (reason : Byte) (outcome : ActOutcome) : List Nat → State → State
  | [], s => s
  | h :: hs, s => completeAll action reason outcome hs (callDone action reason outcome h s)

/-- The completion callbacks of all registered sockets, enabled or not, in registration order
(42_bus_actions.md R215). -/
def notifyAll (action : BusAction) (reason : Byte) (outcome : ActOutcome) (s : State) : State :=
  completeAll action reason outcome (handles s) s

end Sys2Proof.Machine
end

