-- ==== Sys2Proof/Machine/BusActions.lean ====
section
/-! DEFINITION. The bus-action arbiter (42_bus_actions.md R210 to R217). -/

namespace Sys2Proof.Machine

/-- `A <- a`. -/
def setAct (a : BusActionState) (s : State) : State := s.withEng { s.eng with act := a }

/-- `clear_action()` (42_bus_actions.md). -/
def clearAction (s : State) : State := setAct BusActionState.cleared s

/-- The request that the scan takes (42_bus_actions.md R212): the lowest handle that has one, and within a
socket the Reset/NMI/IRQ request before the BusRequest; with the socket's record after it is consumed. -/
def findRequest (s : State) : List Nat → Option (Nat × BusAction × Byte × Socket)
  | [] => none
  | h :: hs =>
    match (sockAt s h).actionRequest with
    | some (p, reason) => some (h, actionOfPulse p, reason, { sockAt s h with actionRequest := none })
    | none =>
      match (sockAt s h).busMasterRequest with
      | some reason => some (h, .busRequest, reason, { sockAt s h with busMasterRequest := none })
      | none => findRequest s hs

/-- `check_pending()` (42_bus_actions.md R212). -/
def checkPending (s : State) : State :=
  if s.eng.act.status ≠ .none then s
  else if s.eng.mastered then s
  else
    match findRequest s (handles s) with
    | none => s
    | some (h, action, reason, k) =>
      match now (setSock h k s) with
      | (t, s1) =>
        setAct { status := .pending, action := action, socket := h, reason := reason, startTime := t,
                 assertedAt := 0, durationUs := 0 } s1

/-- `bus_request_handshake()` (42_bus_actions.md R216). -/
def busRequestHandshake (s : State) : Ret × State :=
  let reason := s.eng.act.reason
  match awaitBusack s with
  | (true, s1) =>
    (okNone,
      releaseMastership (notifyAll .busRequest reason .ok (clearAction (takeMastership s1))))
  | (false, s1) =>
    (.noBusAck,
      notifyAll .busRequest reason .busRequestFailed
        (clearAction (deassertLine .busRequest s1)))

/-- The assert of a Reset, NMI or IRQ for `durationUs`, recorded with its time (42_bus_actions.md R213). -/
def assertPulse (action : BusAction) (durationUs : Nat) (s : State) : Ret × State :=
  let s1 := setAct { s.eng.act with durationUs := durationUs } (assertLine action s)
  match now s1 with
  | (t, s2) => (okNone, setAct { s2.eng.act with assertedAt := t, status := .asserted } s2)

/-- `start_pending()` (42_bus_actions.md R213). -/
def startPending (s : State) : Ret × State :=
  if s.eng.act.status ≠ .pending then (okNone, s)
  else
    match s.eng.act.action with
    | .reset => assertPulse .reset (sockAt s s.eng.act.socket).durResetUs s
    | .nmi => assertPulse .nmi (sockAt s s.eng.act.socket).durNmiUs s
    | .irq => assertPulse .irq (sockAt s s.eng.act.socket).durIrqUs s
    | .busRequest => busRequestHandshake s
    | .none => (okNone, s)

/-- The actions that `advance_pending` ends: Reset, NMI and IRQ (42_bus_actions.md R214). -/
def isPulse : BusAction → Bool
  | .reset | .nmi | .irq => true
  | .none | .busRequest => false

/-- `advance_pending()` (42_bus_actions.md R214). -/
def advancePending (s : State) : State :=
  if s.eng.act.status ≠ .asserted ∨ isPulse s.eng.act.action = false then s
  else
    match now s with
    | (t, s1) =>
      if t - s1.eng.act.assertedAt < s1.eng.act.durationUs then s1
      else
        clearAction (notifyAll s1.eng.act.action s1.eng.act.reason .ok
          (deassertLine s1.eng.act.action s1))

/-- `action_timeout_check()` (42_bus_actions.md R217). -/
def actionTimeoutCheck (s : State) : State :=
  if s.eng.act.status = .none then s
  else
    match now s with
    | (t, s1) =>
      if t - s1.eng.act.startTime ≤ s1.cfg.actionTimeoutUs then s1
      else
        let s2 := if s1.eng.act.status = .asserted then deassertLine s1.eng.act.action s1 else s1
        notifyAll s1.eng.act.action s1.eng.act.reason .actionTimedOut (clearAction s2)

/-- CHECK_PENDING (42_bus_actions.md R212). -/
def execCheckPending (s : State) : Host.Outcome State Fault Refusal := finish (okNone, checkPending s)

/-- START_PENDING (42_bus_actions.md R213). -/
def execStartPending (s : State) : Host.Outcome State Fault Refusal := finish (startPending s)

/-- ADVANCE_PENDING (42_bus_actions.md R214). -/
def execAdvancePending (s : State) : Host.Outcome State Fault Refusal :=
  finish (okNone, advancePending s)

end Sys2Proof.Machine
end

