-- ==== Sys2Proof/Machine/Z80Plans.lean ====
section
/-! DEFINITION. What each Z80 instruction of 46_injection.md R361 does: one plan per row of its table, with
the row's own columns (M1 fetches, further reads, writes in order, effect used). The encodings and
effects are the spec's [from general knowledge, not in source]: PRESUMED, log entry 33. -/

namespace Sys2Proof.Machine

/-- A row of 46_injection.md R361. `m1` and `rd` are its columns; `stackReads` are the reads among `rd`
that are not program bytes, and `writes` the memory writes in bus order, both from the registers before
the effect; `effect` is given a free byte for flags the spec does not state, the bytes the stack reads
received, and the registers with PC and R already past the instruction's own fetches. -/
structure Plan where
  m1 : Nat
  rd : Nat
  stackReads : Z80Regs → List Addr
  writes : Z80Regs → List (Addr × Byte)
  effect : Byte → List Byte → Z80Regs → Z80Regs

/-- No reads beside the program bytes. -/
def noReads : Z80Regs → List Addr := fun _ => []

/-- No writes. -/
def noWrites : Z80Regs → List (Addr × Byte) := fun _ => []

/-- A push: the high byte to SP-1, then the low byte to SP-2 (20_memory.md R82). -/
def pushWrites (sp v : BitVec 16) : List (Addr × Byte) := [(sp - 1, hi v), (sp - 2, lo v)]

/-- A 16-bit store: the low byte to nn, then the high byte to nn+1 (20_memory.md R82). -/
def storeWrites (nn v : BitVec 16) : List (Addr × Byte) := [(nn, lo v), (nn + 1, hi v)]

/-- `A <- v`, the flags unchanged. -/
def setA (v : Byte) (z : Z80Regs) : Z80Regs := { z with af := pair v (lo z.af) }

/-- `A <- v` and `F <- f`. -/
def setAF (v f : Byte) (z : Z80Regs) : Z80Regs := { z with af := pair v f }

/-- The two bytes a pop reads, low first, as a pair (20_memory.md R82). -/
def popPair (data : List Byte) : BitVec 16 := pair (data.getD 1 0) (data.getD 0 0)

def planPushAf : Plan :=
  { m1 := 1, rd := 0, stackReads := noReads, writes := fun z => pushWrites z.sp z.af,
    effect := fun _ _ z => { z with sp := z.sp - 2 } }

def planPopAf : Plan :=
  { m1 := 1, rd := 2, stackReads := fun z => [z.sp, z.sp + 1], writes := noWrites,
    effect := fun _ data z => { z with af := popPair data, sp := z.sp + 2 } }

def planPushIx : Plan :=
  { m1 := 2, rd := 0, stackReads := noReads, writes := fun z => pushWrites z.sp z.ix,
    effect := fun _ _ z => { z with sp := z.sp - 2 } }

def planPushIy : Plan :=
  { m1 := 2, rd := 0, stackReads := noReads, writes := fun z => pushWrites z.sp z.iy,
    effect := fun _ _ z => { z with sp := z.sp - 2 } }

/-- "A <- R (value after this instruction's two increments)"; it changes the flags in a way that is not
stated. -/
def planLdAR : Plan :=
  { m1 := 2, rd := 0, stackReads := noReads, writes := noWrites,
    effect := fun free _ z => setAF z.r (flagsAfterLdAR free) z }

/-- "A <- I; flag P/V (F bit 2) <- IFF2"; the other flags are not stated. -/
def planLdAI : Plan :=
  { m1 := 2, rd := 0, stackReads := noReads, writes := noWrites,
    effect := fun free _ z => setAF z.i (flagsAfterLdAI free z.iff2) z }

def planLdRA : Plan :=
  { m1 := 2, rd := 0, stackReads := noReads, writes := noWrites,
    effect := fun _ _ z => { z with r := hi z.af } }

def planLdIA : Plan :=
  { m1 := 2, rd := 0, stackReads := noReads, writes := noWrites,
    effect := fun _ _ z => { z with i := hi z.af } }

def planLdMemA (nn : Addr) : Plan :=
  { m1 := 1, rd := 2, stackReads := noReads, writes := fun z => [(nn, hi z.af)],
    effect := fun _ _ z => z }

def planLdMemHl (nn : Addr) : Plan :=
  { m1 := 1, rd := 2, stackReads := noReads, writes := fun z => storeWrites nn z.hl,
    effect := fun _ _ z => z }

def planLdMemDe (nn : Addr) : Plan :=
  { m1 := 2, rd := 2, stackReads := noReads, writes := fun z => storeWrites nn z.de,
    effect := fun _ _ z => z }

def planLdMemBc (nn : Addr) : Plan :=
  { m1 := 2, rd := 2, stackReads := noReads, writes := fun z => storeWrites nn z.bc,
    effect := fun _ _ z => z }

def planLdAN (n : Byte) : Plan :=
  { m1 := 1, rd := 1, stackReads := noReads, writes := noWrites, effect := fun _ _ z => setA n z }

def planLdBcNn (nn : BitVec 16) : Plan :=
  { m1 := 1, rd := 2, stackReads := noReads, writes := noWrites,
    effect := fun _ _ z => { z with bc := nn } }

def planLdDeNn (nn : BitVec 16) : Plan :=
  { m1 := 1, rd := 2, stackReads := noReads, writes := noWrites,
    effect := fun _ _ z => { z with de := nn } }

def planLdHlNn (nn : BitVec 16) : Plan :=
  { m1 := 1, rd := 2, stackReads := noReads, writes := noWrites,
    effect := fun _ _ z => { z with hl := nn } }

def planLdSpNn (nn : BitVec 16) : Plan :=
  { m1 := 1, rd := 2, stackReads := noReads, writes := noWrites,
    effect := fun _ _ z => { z with sp := nn } }

def planLdIxNn (nn : BitVec 16) : Plan :=
  { m1 := 2, rd := 2, stackReads := noReads, writes := noWrites,
    effect := fun _ _ z => { z with ix := nn } }

def planLdIyNn (nn : BitVec 16) : Plan :=
  { m1 := 2, rd := 2, stackReads := noReads, writes := noWrites,
    effect := fun _ _ z => { z with iy := nn } }

/-- "swap BC, DE, HL with BC', DE', HL'". -/
def planExx : Plan :=
  { m1 := 1, rd := 0, stackReads := noReads, writes := noWrites,
    effect := fun _ _ z =>
      { z with bc := z.bcAlt, de := z.deAlt, hl := z.hlAlt, bcAlt := z.bc, deAlt := z.de, hlAlt := z.hl } }

/-- "swap AF with AF'". -/
def planExAfAf : Plan :=
  { m1 := 1, rd := 0, stackReads := noReads, writes := noWrites,
    effect := fun _ _ z => { z with af := z.afAlt, afAlt := z.af } }

def planIm0 : Plan :=
  { m1 := 2, rd := 0, stackReads := noReads, writes := noWrites,
    effect := fun _ _ z => { z with im := .im0 } }

def planIm1 : Plan :=
  { m1 := 2, rd := 0, stackReads := noReads, writes := noWrites,
    effect := fun _ _ z => { z with im := .im1 } }

def planIm2 : Plan :=
  { m1 := 2, rd := 0, stackReads := noReads, writes := noWrites,
    effect := fun _ _ z => { z with im := .im2 } }

/-- "IFF1, IFF2 <- 1 (ei takes effect after the next instruction)". -/
def planEi : Plan :=
  { m1 := 1, rd := 0, stackReads := noReads, writes := noWrites,
    effect := fun _ _ z => { z with iff1 := true, iff2 := true, eiShadow := true } }

def planDi : Plan :=
  { m1 := 1, rd := 0, stackReads := noReads, writes := noWrites,
    effect := fun _ _ z => { z with iff1 := false, iff2 := false } }

/-- "PC <- PC_after + sign_extend(d)". -/
def planJrD (d : Byte) : Plan :=
  { m1 := 1, rd := 1, stackReads := noReads, writes := noWrites,
    effect := fun _ _ z => { z with pc := z.pc + signExtend16 d } }

def planJpNn (nn : Addr) : Plan :=
  { m1 := 1, rd := 2, stackReads := noReads, writes := noWrites,
    effect := fun _ _ z => { z with pc := nn } }

/-- ED CB, ED DD, ED ED and ED FD, "which the Z80 executes as two-byte no-operations"
(70_reset_and_hazards.md R465). -/
def planEdNop : Plan :=
  { m1 := 2, rd := 0, stackReads := noReads, writes := noWrites, effect := fun _ _ z => z }

/-- CB CB, `set 1,e` (70_reset_and_hazards.md R465): bit 1 of E, which is bit 1 of DE, is set. That this is
what the mnemonic means is PRESUMED (log entry 40). -/
def planSet1E : Plan :=
  { m1 := 2, rd := 0, stackReads := noReads, writes := noWrites,
    effect := fun _ _ z => { z with de := z.de ||| 0x0002#16 } }

/-- The plan of a Z80 instruction; none for a command of the block. -/
def planOf : Instr → Option Plan
  | .pushAf => some planPushAf
  | .popAf => some planPopAf
  | .pushIx => some planPushIx
  | .pushIy => some planPushIy
  | .ldAR => some planLdAR
  | .ldAI => some planLdAI
  | .ldRA => some planLdRA
  | .ldIA => some planLdIA
  | .ldMemA nn => some (planLdMemA nn)
  | .ldMemHl nn => some (planLdMemHl nn)
  | .ldMemDe nn => some (planLdMemDe nn)
  | .ldMemBc nn => some (planLdMemBc nn)
  | .ldAN n => some (planLdAN n)
  | .ldBcNn nn => some (planLdBcNn nn)
  | .ldDeNn nn => some (planLdDeNn nn)
  | .ldHlNn nn => some (planLdHlNn nn)
  | .ldSpNn nn => some (planLdSpNn nn)
  | .ldIxNn nn => some (planLdIxNn nn)
  | .ldIyNn nn => some (planLdIyNn nn)
  | .exx => some planExx
  | .exAfAf => some planExAfAf
  | .im0 => some planIm0
  | .im1 => some planIm1
  | .im2 => some planIm2
  | .ei => some planEi
  | .di => some planDi
  | .jrD d => some (planJrD d)
  | .jpNn nn => some (planJpNn nn)
  | .addSocket | .enableSocket _ _ | .setWaitOn _ _ _ | .setHold _ _ | .requestAction _ _ _ => none
  | .requestBus _ _ | .serviceTick | .checkPending | .startPending | .advancePending => none
  | .requestAndTake | .release | .blockRead _ _ _ | .blockWrite _ _ _ | .trkEnable _ => none
  | .trkRequestGet | .trkStartSet | .trkStep | .trkRun | .trkHalt | .bpSet _ _ _ | .bpClear _ _ => none
  | .bpGlobalEnable _ | .checkForBreak _ _ | .isPrefix _ | .onWaitCycle | .onBusActionComplete => none

/-- The Z80 completes an instruction: the effect of its row, with `free` for flags not stated. The
shadow of an `ei` ends with the instruction after it. -/
def retire (p : Plan) (free : Byte) (data : List Byte) (z : Z80Regs) : Z80Regs :=
  p.effect free data { z with eiShadow := false }

/-- The number of program bytes of a row: its M1 fetches and those further reads that are not from the
stack (46_injection.md R361). -/
def programLength (p : Plan) (z : Z80Regs) : Nat := p.m1 + p.rd - (p.stackReads z).length

/-- Whether the Z80 would accept a maskable interrupt between two instructions: IFF1 is set and no `ei`
shadow stands (46_injection.md R371). The block never reads it (60_exceptions.md R422). -/
def acceptsInterrupt (z : Z80Regs) : Bool := z.iff1 && !z.eiShadow

end Sys2Proof.Machine
end

