-- ==== Sys2Proof/Machine/Z80Agent.lean ====
section
/-! DEFINITION. The external Z80 as an agent (00_scope.md R8): it makes one bus cycle after another, each of
which WAIT may stop (41_wait_service.md R187), and what its cycles do to memory (20_memory.md R85 to
R87). The engine ends a cycle that waits by `releaseWait`. -/

namespace Sys2Proof.Machine

/-! ### The next cycle of the instruction in progress -/

/-- What the Z80 does next in the instruction it is in. -/
inductive Z80Next where
  /-- an opcode fetch (M1) at PC -/
  | fetch
  /-- an operand read at PC -/
  | operand
  /-- a stack read -/
  | read (a : Addr)
  /-- a memory write -/
  | write (a : Addr) (b : Byte)
  /-- the instruction is complete -/
  | retire (p : Plan) (data : List Byte)
  /-- the bytes are fetched, and the spec gives no effect for them -/
  | outside

/-- Whether the next program byte is fetched with M1: the first byte, and the byte after a prefix
(30_encoding.md R109). -/
def opcodeNext : List Byte → Bool
  | [] => true
  | [b] => prefixByte b
  | _ => false

/-- The index prefixes DD and FD (30_encoding.md R109). -/
def indexPrefix (b : Byte) : Bool := b == 0xDD#8 || b == 0xFD#8

/-- The bytes of an instruction without a run of DD and FD bytes before its own: "each is an M1 fetch of a
prefix value, and the fetch after the last one is the real opcode" (70_reset_and_hazards.md R465; log
entry 40). -/
def afterPrefixRun : List Byte → List Byte
  | [] => []
  | b :: bs =>
    match bs with
    | [] => [b]
    | c :: _ => if indexPrefix b && indexPrefix c then afterPrefixRun bs else b :: bs

/-- The next cycle on bytes that begin no row of 46_injection.md R361. The fetches are those of
30_encoding.md R109: a prefix and the opcode after it with M1, the displacement and the opcode after DD
CB or FD CB without. Then come the effects that 70_reset_and_hazards.md R465 gives: the two-byte
no-operations ED CB, ED DD, ED ED and ED FD, and `set 1,e` (PRESUMED, log entry 40). For other bytes the
effect is open (log entry 12). -/
def unlistedNext : List Byte → Z80Next
  | [b] => if prefixByte b then .fetch else .outside
  | [p, b] =>
    if indexPrefix p && b == 0xCB#8 then .operand
    else if p == 0xED#8 && prefixByte b then .retire planEdNop []
    else if p == 0xCB#8 && b == 0xCB#8 then .retire planSet1E []
    else .outside
  | [p, b, _] => if indexPrefix p && b == 0xCB#8 then .operand else .outside
  | _ => .outside

/-- The next cycle, from the bytes received and the writes made (46_injection.md R361). -/
def z80Next (z : Z80) : Z80Next :=
  let bytes := afterPrefixRun z.rx
  match decodeZ80 bytes with
  | .error .truncated => if opcodeNext bytes then .fetch else .operand
  | .error _ => unlistedNext bytes
  | .ok (i, data) =>
    match planOf i with
    | none => .outside
    | some p =>
      match (p.stackReads z.regs)[data.length]? with
      | some a => .read a
      | none =>
        match (p.writes z.regs)[z.wr]? with
        | some (a, b) => .write a b
        | none => .retire p data

/-- PC moves past a program byte. -/
def passByte (z : Z80Regs) : Z80Regs := { z with pc := z.pc + 1 }

/-- PC moves past an opcode byte, and R counts the M1 fetch ("each M1 fetch increments the low 7 bits of
R and keeps bit 7", 46_injection.md R361). -/
def passOpcode (z : Z80Regs) : Z80Regs := { z with pc := z.pc + 1, r := r7add z.r 1 }

/-- The Z80 receives the byte of the read cycle it is in. -/
def z80Take (b : Byte) (z : Z80) : Z80 :=
  match z80Next z with
  | .fetch => { z with rx := z.rx ++ [b], regs := passOpcode z.regs }
  | .operand => { z with rx := z.rx ++ [b], regs := passByte z.regs }
  | .read _ => { z with rx := z.rx ++ [b] }
  | .write _ _ | .retire _ _ | .outside => z

/-- The Z80 ends a write cycle. -/
def z80Wrote (z : Z80) : Z80 := { z with wr := z.wr + 1 }

/-- The Z80 between two instructions. -/
def z80Idle (r : Z80Regs) : Z80 := { regs := r, rx := [], wr := 0 }

/-- Ends the instruction when its last cycle is over; the flag says whether it did. -/
def z80Retire (free : Byte) (z : Z80) : Bool × Z80 :=
  match z80Next z with
  | .retire p data => (true, z80Idle (retire p free data z.regs))
  | .fetch | .operand | .read _ | .write _ _ | .outside => (false, z)

/-- One cycle's end for the Z80: `f` says what the cycle gave it. -/
def z80Step (f : Z80 → Z80) (s : State) : State :=
  match z80Retire (Config.freeFlags s.world.draws) (f s.world.z80) with
  | (true, z) => s.withWorld { s.world with z80 := z, draws := s.world.draws + 1 }
  | (false, z) => s.withWorld { s.world with z80 := z }

/-! ### The Z80 alone, fed a list of bytes -/

/-- The writes the Z80 makes until it needs a byte, at most `fuel` of them, and the Z80 then. -/
def z80Writes (free : Byte) : Nat → Z80 → List (Addr × Byte) × Z80
  | 0, z => ([], z)
  | fuel + 1, z =>
    match z80Next z with
    | .write a b =>
      let r := z80Writes free fuel (z80Retire free (z80Wrote z)).2
      ((a, b) :: r.1, r.2)
    | .fetch | .operand | .read _ | .retire _ _ | .outside => ([], z)

/-- The Z80 fed `bytes`, one to each read cycle it makes (46_injection.md R360): the writes it makes, in
order, and the Z80 after them. No instruction of R361 makes more than two writes. `free` stands for the
flags that are not stated. -/
def z80Feed (free : Byte) : List Byte → Z80 → List (Addr × Byte) × Z80
  | [], z => ([], z)
  | b :: bs, z =>
    let w := z80Writes free 2 (z80Retire free (z80Take b z)).2
    let r := z80Feed free bs w.2
    (w.1 ++ r.1, r.2)

/-! ### Bus cycles -/

/-- The byte the Z80 receives in a read cycle (20_memory.md R86): the byte the engine drives; else
memory, when it is a memory read and memory is not paged out; else a draw (log entry 10). -/
def received (driven : Option Byte) (c : Presented) (s : State) : Byte × State :=
  match driven with
  | some b => (b, s)
  | none =>
    if isMemRead (sixFlags c.flags) && !s.trk.pageOut then (memRead c.addr s, s) else drawByte s

/-- The end of a bus cycle: a read gives the Z80 its byte; a memory write reaches memory when it is not
paged out, and is discarded when it is; an I/O write is recorded (20_memory.md R86, R87). Page-out is
read now (log entry 28). Answers the byte of a read. -/
def completeCycle (driven : Option Byte) (c : Presented) (s : State) : Option Byte × State :=
  if isRead (sixFlags c.flags) then
    let (b, s1) := received driven c s
    (some b, if c.byZ80 then z80Step (z80Take b) s1 else s1)
  else if isMemWrite (sixFlags c.flags) then
    let s1 := if s.trk.pageOut then s else memWrite c.addr c.data s
    (none, if c.byZ80 then z80Step z80Wrote s1 else s1)
  else if isIo (sixFlags c.flags) && isWrite (sixFlags c.flags) then (none, ioWrite c.addr c.data s)
  else (none, s)

/-- `release_wait()`, with the byte the engine drives (41_wait_service.md R178, R180): the presented
cycle ends. With no cycle in a wait it does nothing, so the second of the two writes that the hardware
needs (70_reset_and_hazards.md R472) is no second step here (log entry 22). -/
def releaseWait (driven : Option Byte) (s : State) : State :=
  match s.world.present with
  | none => s
  | some c =>
    match completeCycle driven c (s.withWorld { s.world with present := none }) with
    | (some b, s1) => s1.withWorld { s1.world with delivered := some b }
    | (none, s1) => s1

/-- Whether the WAIT latch stops a cycle that begins now (41_wait_service.md R187): a memory cycle when
`S.wait_gen_mem`, an I/O or interrupt-acknowledge cycle when `S.wait_gen_io`. A cycle that is no valid
settled combination, such as a refresh (70_reset_and_hazards.md R474), is a move only when the latch is
found set with it, so it waits whatever the wait enables; R187 does not say whether it could while they
are false (DESIGN CHOICE, log entry 39). -/
def waitsFor (f : CtrlFlags) (s : State) : Bool :=
  if !validSettled f then true
  else if isMem f then s.eng.waitGenMem
  else if isIo f || isIrqAck f then s.eng.waitGenIo
  else true

/-- A bus cycle begins: it is presented when WAIT stops it, and ends at once when not. -/
def startCycle (f : CtrlFlags) (a : Addr) (d : Byte) (byZ80 : Bool) (s : State) : State :=
  if waitsFor (sixFlags f) s then
    let (st, s1) := drawSettle s
    s1.withWorld { s1.world with
      present := some { flags := f, addr := a, data := d, settle := st, byZ80 := byZ80 } }
  else
    (completeCycle none { flags := f, addr := a, data := d, settle := [], byZ80 := byZ80 } s).2

/-- Whether the Z80 makes no cycle now: the engine masters the bus (70_reset_and_hazards.md R462), RESET
is asserted (95_test_vectors.md P4), or the Z80 is held in a wait (R461). -/
def offBus (s : State) : Bool := s.eng.mastered || s.eng.lineReset || inWait s

/-- A cycle the Z80 makes outside the instructions of 46_injection.md R361 (00_scope.md R8): one of an
instruction the spec does not list, an interrupt response, a refresh that the latch fires on (log entry
15). Off the bus it makes none. -/
def foreignCycle (f : CtrlFlags) (a : Addr) (d : Byte) (s : State) : State :=
  if offBus s then s else startCycle f a d false s

/-- The Z80's registers become `r` by something outside 46_injection.md R361, and it is between two
instructions; a Z80 held in a wait loses no state (60_exceptions.md R432). -/
def foreignRegs (r : Z80Regs) (s : State) : State :=
  if inWait s then s else s.withWorld { s.world with z80 := z80Idle r }

/-- A move of the Z80 outside 46_injection.md R361. -/
def outsideMove (m : Z80Move) (s : State) : State :=
  match m with
  | .cycle f a d => foreignCycle f a d s
  | .become r => foreignRegs r s

/-- One cycle of the Z80 on the instruction it is in, or on the next one; where the spec gives the bytes it
has fetched no effect, a free move (log entry 12). Off the bus it makes none. -/
def z80Cycle (s : State) : State :=
  if offBus s then s
  else
    match z80Next s.world.z80 with
    | .fetch => startCycle flagsFetch s.world.z80.regs.pc 0 true s
    | .operand => startCycle flagsRead s.world.z80.regs.pc 0 true s
    | .read a => startCycle flagsRead a 0 true s
    | .write a b => startCycle flagsWrite a b true s
    | .retire _ _ => z80Step id s
    | .outside =>
      outsideMove (Config.freeMove s.world.draws)
        (s.withWorld { s.world with draws := s.world.draws + 1 })

/-! ### A whole instruction, with no wait -/

/-- Whether the Z80 runs a whole instruction with no wait: it is on the bus, between two instructions,
memory cycles do not wait, and memory is not paged out. -/
def z80Free (s : State) : Bool :=
  !offBus s && !s.eng.waitGenMem && !s.trk.pageOut && s.world.z80.rx.isEmpty && s.world.z80.wr == 0

/-- The registers past an instruction's own fetches: PC past its program bytes, R past its M1 fetches
(46_injection.md R361). -/
def pastFetch (p : Plan) (z : Z80Regs) : Z80Regs :=
  { z with pc := z.pc + BitVec.ofNat 16 (programLength p z), r := r7add z.r (BitVec.ofNat 8 p.m1) }

/-- Memory after a list of writes, in order. -/
def writeAll (ws : List (Addr × Byte)) (m : Memory) : Memory :=
  ws.foldl (fun m w => Memory.write m w.1 w.2) m

/-- A whole instruction: its fetches, its stack reads, its writes, and its effect (46_injection.md
R361). -/
def runPlan (p : Plan) (s : State) : State :=
  let z := pastFetch p s.world.z80.regs
  let data := (p.stackReads z).map (fun a => memRead a s)
  s.withWorld { s.world with
    mem := writeAll (p.writes z) s.world.mem
    z80 := z80Idle (retire p (Config.freeFlags s.world.draws) data z)
    draws := s.world.draws + 1 }

/-- The Z80 runs an instruction: the whole of it when nothing stops it, and else its next bus cycle (log
entry 29). -/
def z80Exec (p : Plan) (s : State) : Host.Outcome State Fault Refusal :=
  .next (if z80Free s then runPlan p s else z80Cycle s)

/-- The bytes at the Z80's program counter, as many as the longest instruction has. -/
def bytesAtPc (s : State) : List Byte :=
  let pc := s.world.z80.regs.pc
  [memRead pc s, memRead (pc + 1) s, memRead (pc + 2) s, memRead (pc + 3) s]

end Sys2Proof.Machine
end

