-- ==== Sys2Proof/Machine/WaitService.lean ====
section
/-! DEFINITION. The wait service and the service tick (41_wait_service.md R170 to R186). -/

namespace Sys2Proof.Machine

/-- `W <- w`. -/
def setWaitState (w : WaitState) (s : State) : State := s.withEng { s.eng with wait := w }

/-- The counters after a serviced cycle (41_wait_service.md R181); every counter wraps, and the maximum is
narrowed after the comparison (log entry 21). -/
def countCycle (f : CtrlFlags) (len : Nat) (c : Counters) : Counters :=
  let c1 : Counters := { c with total := c.total + 1 }
  let c2 :=
    if isMemRead f then { c1 with mreqRd := c1.mreqRd + 1 }
    else if isMemWrite f then { c1 with mreqWr := c1.mreqWr + 1 }
    else if isIrqAck f then { c1 with irqAck := c1.irqAck + 1 }
    else if isIo f && isRead f then { c1 with iorqRd := c1.iorqRd + 1 }
    else if isIo f && isWrite f then { c1 with iorqWr := c1.iorqWr + 1 }
    else c1
  let c3 := { c2 with
    latSumUs := c2.latSumUs + BitVec.ofNat 32 len
    latMaxUs := BitVec.ofNat 32 (max c2.latMaxUs.toNat len) }
  if c3.total ≠ 0 then { c3 with latAvgUs := c3.latSumUs / c3.total } else c3

/-- The byte the engine drives: the merged decision's, on a cycle that the Z80 reads
(41_wait_service.md R178). -/
def drivenByte (c : CycleRecord) : Option Byte :=
  if isRead c.flags then byteOfDecision c.merged else none

/-- `complete_cycle()` (41_wait_service.md R179). -/
def completeServiced (s : State) : State :=
  let s1 := releaseWait (drivenByte s.eng.wait.cur) s
  let s2 := setWaitState { s1.eng.wait with asserted := false, held := false } s1
  match now s2 with
  | (t, s3) =>
    let len := t - s3.eng.wait.assertedAt
    s3.withEng { s3.eng with
      wait := { s3.eng.wait with cycleLength := len }
      counters := countCycle s3.eng.wait.cur.flags len s3.eng.counters }

/-- `decode_timeout()` (41_wait_service.md R174). -/
def decodeTimeout (s : State) : State :=
  let c := s.eng.counters
  let s1 := releaseWait none (s.withEng { s.eng with
    counters := { c with decodeTimeout := c.decodeTimeout + 1 } })
  setWaitState { s1.eng.wait with asserted := false } s1

/-- The settle loop: the first valid sample of at most `n` (41_wait_service.md R173). -/
def settleLoop : Nat → State → Option CtrlFlags × State
  | 0, s => (none, s)
  | n + 1, s =>
    match sampleCtrl s with
    | (f, s1) => if validSettled f then (some f, s1) else settleLoop n s1

/-- `sample_addr()`: the address of the presented cycle (20_memory.md R85). -/
def sampleAddr (s : State) : Addr :=
  match s.world.present with
  | some c => c.addr
  | none => 0

/-- `sample_data()` (20_memory.md R85): on a write the byte the Z80 writes; on a read the value on the data
bus before the block drives anything: memory, when it is a memory read and memory is not paged out, and
else a draw. -/
def sampleData (s : State) : Byte × State :=
  match s.world.present with
  | none => drawByte s
  | some c =>
    if isRead (sixFlags c.flags) then
      if isMemRead (sixFlags c.flags) && !s.trk.pageOut then (memRead c.addr s, s) else drawByte s
    else (c.data, s)

/-- Steps 3 and 4 with the merge and the hold (41_wait_service.md R175 to R177); `f` is the settled
sample. -/
def dispatchCycle (f : CtrlFlags) (s : State) : State :=
  match sampleCtrl s with
  | (g, s1) =>
    let f1 := setWait (setM1 f (flagM1 g))
    let addr := pair (hi (sampleAddr s1)) (lo (sampleAddr s1))
    match sampleData s1 with
    | (data, s2) =>
      match fanOut addr data f1 (handles s2) s2 with
      | (ds, s3) =>
        let cur : CycleRecord := { addr := addr, data := data, flags := f1, merged := mergeDecisions ds }
        let s4 := setWaitState { s3.eng.wait with cur := cur } s3
        if s4.eng.wait.hold then setWaitState { s4.eng.wait with held := true } s4
        else completeServiced s4

/-- `decode_and_dispatch()` (41_wait_service.md R173 to R177). -/
def decodeAndDispatch (s : State) : State :=
  match settleLoop s.cfg.settleRetries s with
  | (none, s1) => decodeTimeout s1
  | (some f, s1) => dispatchCycle f s1

/-- `wait_detect()` (41_wait_service.md R172). -/
def waitDetect (s : State) : State :=
  let w := sampleWait s
  match sampleBusack s with
  | (ack, s1) =>
    if w && !ack then
      match now (setWaitState { s1.eng.wait with asserted := true } s1) with
      | (t, s2) => decodeAndDispatch (setWaitState { s2.eng.wait with assertedAt := t } s2)
    else s1

/-- The three diagnostic counters grow by any amount at a tick (41_wait_service.md R186). -/
def diagEvents (s : State) : State :=
  match drawDiag s with
  | ((a, b, c), s1) =>
    s1.withEng { s1.eng with counters := { s1.eng.counters with
      diagSpuriousBusrq := s1.eng.counters.diagSpuriousBusrq + a
      diagIrqDuringBusack := s1.eng.counters.diagIrqDuringBusack + b
      diagIrqWithoutWait := s1.eng.counters.diagIrqWithoutWait + c } }

/-- The wait half of a tick (41_wait_service.md R170, R171, R184). -/
def tickWait (s : State) : State :=
  if !s.eng.wait.asserted then waitDetect s
  else if s.eng.wait.held && !s.eng.wait.hold then completeServiced s
  else s

/-- The action half of a tick (41_wait_service.md R170). -/
def tickActions (s : State) : State :=
  let s1 := actionTimeoutCheck (advancePending s)
  if !s1.eng.wait.asserted then (startPending (checkPending s1)).2 else s1

/-- `service_tick()` (41_wait_service.md R170). -/
def serviceTick (s : State) : State := tickActions (tickWait (diagEvents s))

/-- SERVICE_TICK (41_wait_service.md R170): its result is Ok, whatever it absorbs. Both service
configurations issue it as a command (log entry 36). -/
def execServiceTick (s : State) : Host.Outcome State Fault Refusal := finish (okNone, serviceTick s)

end Sys2Proof.Machine
end

