-- ==== Sys2Proof/Machine/Z80Exec.lean ====
section
/-! DEFINITION. The meanings of the Z80 instructions of 46_injection.md R361: each is its own row of the
table (Z80Plans.lean), run by the Z80 agent. -/

namespace Sys2Proof.Machine

/-- `push af`. -/
def execPushAf (s : State) : Host.Outcome State Fault Refusal := z80Exec planPushAf s

/-- `pop af`. -/
def execPopAf (s : State) : Host.Outcome State Fault Refusal := z80Exec planPopAf s

/-- `push ix`. -/
def execPushIx (s : State) : Host.Outcome State Fault Refusal := z80Exec planPushIx s

/-- `push iy`. -/
def execPushIy (s : State) : Host.Outcome State Fault Refusal := z80Exec planPushIy s

/-- `ld a,r`. -/
def execLdAR (s : State) : Host.Outcome State Fault Refusal := z80Exec planLdAR s

/-- `ld a,i`. -/
def execLdAI (s : State) : Host.Outcome State Fault Refusal := z80Exec planLdAI s

/-- `ld r,a`. -/
def execLdRA (s : State) : Host.Outcome State Fault Refusal := z80Exec planLdRA s

/-- `ld i,a`. -/
def execLdIA (s : State) : Host.Outcome State Fault Refusal := z80Exec planLdIA s

/-- `ld (nn),a`. -/
def execLdMemA (nn : BitVec 16) (s : State) : Host.Outcome State Fault Refusal := z80Exec (planLdMemA nn) s

/-- `ld (nn),hl`. -/
def execLdMemHl (nn : BitVec 16) (s : State) : Host.Outcome State Fault Refusal := z80Exec (planLdMemHl nn) s

/-- `ld (nn),de`. -/
def execLdMemDe (nn : BitVec 16) (s : State) : Host.Outcome State Fault Refusal := z80Exec (planLdMemDe nn) s

/-- `ld (nn),bc`. -/
def execLdMemBc (nn : BitVec 16) (s : State) : Host.Outcome State Fault Refusal := z80Exec (planLdMemBc nn) s

/-- `ld a,n`. -/
def execLdAN (n : Byte) (s : State) : Host.Outcome State Fault Refusal := z80Exec (planLdAN n) s

/-- `ld bc,nn`. -/
def execLdBcNn (nn : BitVec 16) (s : State) : Host.Outcome State Fault Refusal := z80Exec (planLdBcNn nn) s

/-- `ld de,nn`. -/
def execLdDeNn (nn : BitVec 16) (s : State) : Host.Outcome State Fault Refusal := z80Exec (planLdDeNn nn) s

/-- `ld hl,nn`. -/
def execLdHlNn (nn : BitVec 16) (s : State) : Host.Outcome State Fault Refusal := z80Exec (planLdHlNn nn) s

/-- `ld sp,nn`. -/
def execLdSpNn (nn : BitVec 16) (s : State) : Host.Outcome State Fault Refusal := z80Exec (planLdSpNn nn) s

/-- `ld ix,nn`. -/
def execLdIxNn (nn : BitVec 16) (s : State) : Host.Outcome State Fault Refusal := z80Exec (planLdIxNn nn) s

/-- `ld iy,nn`. -/
def execLdIyNn (nn : BitVec 16) (s : State) : Host.Outcome State Fault Refusal := z80Exec (planLdIyNn nn) s

/-- `exx`. -/
def execExx (s : State) : Host.Outcome State Fault Refusal := z80Exec planExx s

/-- `ex af,af'`. -/
def execExAfAf (s : State) : Host.Outcome State Fault Refusal := z80Exec planExAfAf s

/-- `im 0`. -/
def execIm0 (s : State) : Host.Outcome State Fault Refusal := z80Exec planIm0 s

/-- `im 1`. -/
def execIm1 (s : State) : Host.Outcome State Fault Refusal := z80Exec planIm1 s

/-- `im 2`. -/
def execIm2 (s : State) : Host.Outcome State Fault Refusal := z80Exec planIm2 s

/-- `ei`. -/
def execEi (s : State) : Host.Outcome State Fault Refusal := z80Exec planEi s

/-- `di`. -/
def execDi (s : State) : Host.Outcome State Fault Refusal := z80Exec planDi s

/-- `jr d`. -/
def execJrD (d : Byte) (s : State) : Host.Outcome State Fault Refusal := z80Exec (planJrD d) s

/-- `jp nn`. -/
def execJpNn (nn : BitVec 16) (s : State) : Host.Outcome State Fault Refusal := z80Exec (planJpNn nn) s

end Sys2Proof.Machine
end

