-- ==== Sys2Proof/Machine/Dispatch.lean ====
section
/-! DEFINITION. The dispatch: one arm per instruction, each a direct call of its meaning. -/

namespace Sys2Proof.Machine

def exec (i : Instr) (s : State) : Host.Outcome State Fault Refusal :=
  match i with
  | .addSocket => Sys2Proof.Machine.execAddSocket s
  | .enableSocket h e => Sys2Proof.Machine.execEnableSocket h e s
  | .setWaitOn h m io => Sys2Proof.Machine.execSetWaitOn h m io s
  | .setHold h d => Sys2Proof.Machine.execSetHold h d s
  | .requestAction h reason act => Sys2Proof.Machine.execRequestAction h reason act s
  | .requestBus h reason => Sys2Proof.Machine.execRequestBus h reason s
  | .serviceTick => Sys2Proof.Machine.execServiceTick s
  | .checkPending => Sys2Proof.Machine.execCheckPending s
  | .startPending => Sys2Proof.Machine.execStartPending s
  | .advancePending => Sys2Proof.Machine.execAdvancePending s
  | .requestAndTake => Sys2Proof.Machine.execRequestAndTake s
  | .release => Sys2Proof.Machine.execRelease s
  | .blockRead auto io addr => Sys2Proof.Machine.execBlockRead auto io addr s
  | .blockWrite auto io addr => Sys2Proof.Machine.execBlockWrite auto io addr s
  | .trkEnable e => Sys2Proof.Machine.execTrkEnable e s
  | .trkRequestGet => Sys2Proof.Machine.execTrkRequestGet s
  | .trkStartSet => Sys2Proof.Machine.execTrkStartSet s
  | .trkStep => Sys2Proof.Machine.execTrkStep s
  | .trkRun => Sys2Proof.Machine.execTrkRun s
  | .trkHalt => Sys2Proof.Machine.execTrkHalt s
  | .bpSet t idx pc => Sys2Proof.Machine.execBpSet t idx pc s
  | .bpClear t idx => Sys2Proof.Machine.execBpClear t idx s
  | .bpGlobalEnable e => Sys2Proof.Machine.execBpGlobalEnable e s
  | .checkForBreak flags addr => Sys2Proof.Machine.execCheckForBreak flags addr s
  | .isPrefix b => Sys2Proof.Machine.execIsPrefix b s
  | .onWaitCycle => Sys2Proof.Machine.execOnWaitCycle s
  | .onBusActionComplete => Sys2Proof.Machine.execOnBusActionComplete s
  | .pushAf => Sys2Proof.Machine.execPushAf s
  | .popAf => Sys2Proof.Machine.execPopAf s
  | .pushIx => Sys2Proof.Machine.execPushIx s
  | .pushIy => Sys2Proof.Machine.execPushIy s
  | .ldAR => Sys2Proof.Machine.execLdAR s
  | .ldAI => Sys2Proof.Machine.execLdAI s
  | .ldRA => Sys2Proof.Machine.execLdRA s
  | .ldIA => Sys2Proof.Machine.execLdIA s
  | .ldMemA nn => Sys2Proof.Machine.execLdMemA nn s
  | .ldMemHl nn => Sys2Proof.Machine.execLdMemHl nn s
  | .ldMemDe nn => Sys2Proof.Machine.execLdMemDe nn s
  | .ldMemBc nn => Sys2Proof.Machine.execLdMemBc nn s
  | .ldAN n => Sys2Proof.Machine.execLdAN n s
  | .ldBcNn nn => Sys2Proof.Machine.execLdBcNn nn s
  | .ldDeNn nn => Sys2Proof.Machine.execLdDeNn nn s
  | .ldHlNn nn => Sys2Proof.Machine.execLdHlNn nn s
  | .ldSpNn nn => Sys2Proof.Machine.execLdSpNn nn s
  | .ldIxNn nn => Sys2Proof.Machine.execLdIxNn nn s
  | .ldIyNn nn => Sys2Proof.Machine.execLdIyNn nn s
  | .exx => Sys2Proof.Machine.execExx s
  | .exAfAf => Sys2Proof.Machine.execExAfAf s
  | .im0 => Sys2Proof.Machine.execIm0 s
  | .im1 => Sys2Proof.Machine.execIm1 s
  | .im2 => Sys2Proof.Machine.execIm2 s
  | .ei => Sys2Proof.Machine.execEi s
  | .di => Sys2Proof.Machine.execDi s
  | .jrD d => Sys2Proof.Machine.execJrD d s
  | .jpNn nn => Sys2Proof.Machine.execJpNn nn s

end Sys2Proof.Machine
end

