-- ==== Sys2Proof/Machine/Step.lean ====
section
/-! DEFINITION. One step of the machine: the next move of the total order of 20_memory.md R89, which is the
head of the agenda, or, when none is listed, a free one (log entry 7). -/

namespace Sys2Proof.Machine

/-- The next move and the state with it taken off the agenda. -/
def nextTurn (s : State) : Turn × State :=
  match s.world.agenda with
  | t :: ts => (t, s.withWorld { s.world with agenda := ts })
  | [] => (Config.freeTurn s.world.draws, s.withWorld { s.world with draws := s.world.draws + 1 })

/-- The state with a host command's payload at the port (30_encoding.md R104). -/
def atPort (p : Payload) (s : State) : State :=
  s.withPort { s.port with issuer := .host, payload := p }

/-- A host command: the decoded instruction runs; an illegal word changes no state and returns
Error(InvalidArgument) (30_encoding.md R106). -/
def hostTurn (w : Word32) (p : Payload) (s : State) : Host.Outcome State Fault Refusal :=
  match decodeCommand w with
  | .ok i => exec i (atPort p s)
  | .error _ => finish (invalid, atPort p s)

/-- A move of the Z80: the instruction of 46_injection.md R361 at its program counter when nothing stops
it, and else its next bus cycle. -/
def z80Turn (s : State) : Host.Outcome State Fault Refusal :=
  if z80Free s then
    match decodeZ80 (bytesAtPc s) with
    | .ok (i, _) => exec i s
    | .error _ => .next (z80Cycle s)
  else .next (z80Cycle s)

/-- One move. -/
def takeTurn (t : Turn) (s : State) : Host.Outcome State Fault Refusal :=
  match t with
  | .host w p => hostTurn w p s
  | .z80 => z80Turn s
  | .outside m => .next (outsideMove m s)

/-- One step of the machine. -/
def step (s : State) : Host.Outcome State Fault Refusal :=
  match nextTurn s with
  | (t, s1) => takeTurn t s1

/-! ### Where step fetches its next instruction -/

/-- Puts a move at the head of the agenda. -/
def pushTurn (t : Turn) (s : State) : State :=
  s.withWorld { s.world with agenda := t :: s.world.agenda }

/-- Makes the Z80 free to run a whole instruction: on the bus, in no instruction, no wait, memory not
paged out. At reset it already is. -/
def freeZ80 (s : State) : State :=
  let e := s.eng
  let s1 := s.withEng { e with
    mastered := false, lineReset := false, waitGenMem := false, wait := { e.wait with asserted := false } }
  let s2 := s1.withTrk { s1.trk with pageOut := false }
  s2.withWorld { s2.world with present := none, z80 := z80Idle s2.world.z80.regs }

/-- Writes bytes to memory at consecutive addresses. -/
def placeBytes (a : Addr) : List Byte → State → State
  | [], s => s
  | b :: bs, s => placeBytes (a + 1) bs (memWrite a b s)

/-- Places a Z80 instruction's bytes at the program counter of a free Z80, which moves next. -/
def placeZ80 (w : Nat) (s : State) : State :=
  let s1 := freeZ80 s
  pushTurn .z80 (placeBytes s1.world.z80.regs.pc (bytesOf 4 w) s1)

/-- The state with an instruction stored where the next step fetches it: a command word is the host's
next command, with an empty payload; a Z80 instruction's bytes stand at the Z80's program counter. -/
def State.withFetchWord (s : State) (nbits w : Nat) : State :=
  if nbits = 32 then
    match decodeCommand (BitVec.ofNat 32 w), decodeTableZ80 nbits w with
    | .error _, some _ => placeZ80 w s
    | _, _ => pushTurn (.host (BitVec.ofNat 32 w) {}) s
  else placeZ80 w s

end Sys2Proof.Machine
end

