-- ==== Sys2Proof/Safety.lean ====
section
/-! DEFINITION. The terms that claims about runs are stated in: the invariants that every step keeps
(10_state.md R22 to R25, 45_tracker.md R332), the records of callback calls, and the Z80 fed by an
injection (46_injection.md R360 to R365). -/

namespace Sys2Proof.Machine

/-! ### Records of calls -/

def CallRecord.isWait : CallRecord → Bool
  | .waitCycle _ _ _ _ => true
  | .complete _ _ _ _ | .command _ _ _ => false

def CallRecord.isComplete : CallRecord → Bool
  | .complete _ _ _ _ => true
  | .waitCycle _ _ _ _ | .command _ _ _ => false

/-- The `on_wait_cycle` calls made so far, newest first. -/
def waitCalls (s : State) : List CallRecord := s.world.calls.filter CallRecord.isWait

/-- The `on_bus_action_complete` calls made so far, newest first. -/
def doneCalls (s : State) : List CallRecord := s.world.calls.filter CallRecord.isComplete

/-- One completion call for every registered socket, in registration order, newest first
(42_bus_actions.md R215). -/
def allNotified (action : BusAction) (reason : Byte) (outcome : ActOutcome) (n : Nat) : List CallRecord :=
  ((List.range n).map (fun h => CallRecord.complete h action reason outcome)).reverse

/-! ### Invariants -/

/-- Memory and the mirror have their canonical form. -/
abbrev MemoryOk (s : State) : Prop :=
  Memory.wf s.world.mem = true ∧ Memory.wf s.trk.mirror = true

/-- The tables have the sizes that the parameters fix, the registered slots are the first ones
(10_state.md R20, R37), and the tracker is socket 0 and only that (70_reset_and_hazards.md R451). -/
abbrev TableOk (s : State) : Prop :=
  s.eng.sock.length = s.cfg.maxSockets ∧ 1 ≤ s.eng.numSockets ∧ s.eng.numSockets ≤ s.cfg.maxSockets ∧
  (∀ h, h < s.cfg.maxSockets → ((sockAt s h).registered = true ↔ h < s.eng.numSockets)) ∧
  (∀ h, h < s.cfg.maxSockets → 0 < h →
    (sockAt s h).onWaitCycle ≠ .tracker ∧ (sockAt s h).onDone ≠ .tracker) ∧
  s.trk.socket = 0 ∧ (sockAt s 0).onWaitCycle = .tracker ∧ (sockAt s 0).onDone = .tracker ∧
  s.bp.fast.length = s.cfg.nFastBp ∧ s.bp.slow.length = s.cfg.nSlowBp

/-- The aggregates are what 40_socket_table.md R146 computes from the registered sockets. -/
abbrev AggregatesOk (s : State) : Prop :=
  (s.eng.wait.hold = true ↔ ∃ h, h < s.eng.numSockets ∧ (sockAt s h).hold = true) ∧
  (s.eng.waitGenMem = true ↔
    (∃ h, h < s.eng.numSockets ∧ (sockAt s h).enabled = true ∧ (sockAt s h).waitOnMemory = true) ∧
    s.eng.mastered = false) ∧
  (s.eng.waitGenIo = true ↔
    (∃ h, h < s.eng.numSockets ∧ (sockAt s h).enabled = true ∧ (sockAt s h).waitOnIo = true) ∧
    s.eng.mastered = false)

/-- The socket table and its aggregates. -/
abbrev SocketsOk (s : State) : Prop := TableOk s ∧ AggregatesOk s

/-- The bus has one owner (10_state.md R22, R24, R27, 42_bus_actions.md R210, R218): each request line is
asserted exactly while its action is, BUSRQ exactly while the engine masters the bus, and no action is
in progress then. -/
abbrev BusOwnershipOk (s : State) : Prop :=
  (s.eng.act.status = .none ↔ s.eng.act.action = .none) ∧
  (s.eng.act.status = .none → s.eng.act = BusActionState.cleared) ∧
  (s.eng.act.status = .asserted → s.eng.act.action ≠ .busRequest) ∧
  (s.eng.lineReset = true ↔ s.eng.act.status = .asserted ∧ s.eng.act.action = .reset) ∧
  (s.eng.lineNmi = true ↔ s.eng.act.status = .asserted ∧ s.eng.act.action = .nmi) ∧
  (s.eng.lineIrq = true ↔ s.eng.act.status = .asserted ∧ s.eng.act.action = .irq) ∧
  s.eng.lineBusrq = s.eng.mastered ∧ s.eng.busDriven = s.eng.mastered ∧
  (s.eng.mastered = true → s.eng.act.status = .none)

/-- A legal interrupt mode of a snapshot (10_state.md R34). -/
abbrev imLegal (im : Byte) : Prop := im = 0 ∨ im = 1 ∨ im = 2 ∨ im = 0xFF

/-- An interrupt mode a SET may be asked for (45_tracker.md R312). -/
abbrev imSettable (im : Byte) : Prop := im = 0 ∨ im = 1 ∨ im = 2

/-- The tracker's state machine is coherent between steps (10_state.md R32, 45_tracker.md R316, R317,
R332): PostInject is never seen, a sequence exists and memory is paged out exactly while injecting, and
a tracker that is off asks for nothing. -/
abbrev TrackerOk (s : State) : Prop :=
  s.trk.state ≠ .postInject ∧
  (s.trk.state = .injecting ↔ s.trk.seqKind ≠ .none) ∧
  (s.trk.state = .injecting ↔ s.trk.pageOut = true) ∧
  (s.trk.state ≠ .injecting → s.trk.seq = [] ∧ s.trk.cursor = 0) ∧
  (s.trk.seqKind = .get → s.trk.seq = getTemplate) ∧
  (s.trk.seqKind = .set → s.trk.seq = setTemplate s.trk.setActive ∧ imSettable s.trk.setActive.im) ∧
  (s.trk.state = .injecting →
    s.trk.enabled = true ∧ 1 ≤ s.trk.cursor ∧ s.trk.cursor < s.trk.seq.length) ∧
  (s.trk.disablePending = true → s.trk.state = .injecting) ∧
  (s.trk.enabled = false →
    s.trk.state = .idle ∧ s.trk.held = false ∧ s.trk.holdArmed = false ∧ s.trk.stepInto = false ∧
    s.trk.getRequested = false ∧ s.trk.setRequest = none) ∧
  (∀ r ∈ s.trk.setRequest, imSettable r.im) ∧
  imLegal s.trk.regs.im ∧ s.trk.cap.length = 23

/-- Between steps a wait is asserted exactly while a cycle is held (41_wait_service.md R170, R177), that
cycle is there, and no time stamp lies in the future (60_exceptions.md R427). -/
abbrev WaitOk (s : State) : Prop :=
  s.eng.wait.asserted = s.eng.wait.held ∧
  (s.eng.wait.asserted = true → s.world.present.isSome = true) ∧
  s.eng.wait.assertedAt ≤ s.world.clock ∧ s.eng.act.startTime ≤ s.world.clock ∧
  s.eng.act.assertedAt ≤ s.world.clock

/-! ### Shapes of states that statements name -/

/-- No bus action is in progress or asked for. -/
abbrev NoActions (s : State) : Prop :=
  s.eng.act.status = .none ∧
  ∀ h, h < s.eng.numSockets → (sockAt s h).actionRequest = none ∧ (sockAt s h).busMasterRequest = none

/-- What socket `h` answers to the next cycle, when it is a collaborator that issues no command. -/
def scriptedAnswer (s : State) (h : Nat) : Option Decision :=
  match (sockAt s h).onWaitCycle with
  | .script (r :: _) => if r.cmds.isEmpty then some r.decision else none
  | .script [] | .none | .tracker => none

/-- Socket 0 is the tracker's (70_reset_and_hazards.md R451). -/
abbrev TrackerFirst (s : State) : Prop :=
  0 < s.eng.numSockets ∧ (sockAt s 0).onWaitCycle = .tracker ∧ s.trk.socket = 0

/-- Every enabled socket is the tracker, at handle 0, or a collaborator whose next call only answers. -/
abbrev Answering (s : State) : Prop :=
  ∀ h, h < s.eng.numSockets → (sockAt s h).enabled = true →
    (scriptedAnswer s h).isSome = true ∨ h = 0 ∧ TrackerFirst s

/-- What the tracker answers to a cycle and does with it, where it is enabled and has handle 0; elsewhere
nothing (45_tracker.md R320). It is called before every other socket. -/
def trackerTurn (addr : Addr) (data : Byte) (f : CtrlFlags) (s : State) : Decision × State :=
  if TrackerFirst s ∧ (sockAt s 0).enabled = true then trackerOnWaitCycle addr data f s
  else (.notDecoded, s)

/-- The decisions of the next fan-out of an `Answering` state, by handle. -/
def decisionsAt (addr : Addr) (data : Byte) (f : CtrlFlags) (s : State) : List Decision :=
  (List.range s.eng.numSockets).map (fun h =>
    if (sockAt s h).enabled then
      (if h = 0 ∧ TrackerFirst s then (trackerTurn addr data f s).1
       else (scriptedAnswer s h).getD .notDecoded)
    else .notDecoded)

/-- The handles that the next fan-out of an `Answering` state calls. -/
def enabledHandles (s : State) : List Nat :=
  (List.range s.eng.numSockets).filter (fun h => (sockAt s h).enabled)

/-- How many samples of a presented cycle come before the first of a valid combination. -/
def unsettled (c : Presented) : Nat :=
  (c.settle.takeWhile (fun f => !validSettled (sixFlags f))).length

/-- A fresh wait that the next tick services: the Z80 presents `c`, a valid combination whose lines settle
within `SETTLE_RETRIES` samples, and BUSACK is not seen. -/
abbrev FreshWait (c : Presented) (s : State) : Prop :=
  s.eng.wait.asserted = false ∧ s.eng.wait.held = false ∧ s.world.present = some c ∧
  validSettled (sixFlags c.flags) = true ∧ unsettled c < s.cfg.settleRetries ∧
  s.world.busackDraws.head? = some false

/-! ### A service tick in two halves (41_wait_service.md R170) -/

/-- The state when a tick has done its wait half, and its action half begins. -/
def afterWait (s : State) : State := tickWait (diagEvents s)

/-- The state when a tick has advanced the action in progress and looked at its time, and takes the next
one if no wait is asserted. -/
def afterAdvance (s : State) : State := actionTimeoutCheck (advancePending (afterWait s))

/-! ### The command words of the table -/

/-- The mask and the match of every command row of spec/opcode_table.json, in its order. -/
def commandRows : List (Word32 × Word32) :=
  [(0xFFFFFFFF, 0x01000000), (0xFF00FFFE, 0x02000000), (0xFF00FFFC, 0x03000000)] ++
  [(0xFF00FFFE, 0x04000000), (0xFF0000FC, 0x05000000), (0xFF0000FF, 0x06000000)] ++
  [(0xFFFFFFFF, 0x08000000), (0xFFFFFFFF, 0x09000000), (0xFFFFFFFF, 0x0A000000)] ++
  [(0xFFFFFFFF, 0x0B000000), (0xFFFFFFFF, 0x0C000000), (0xFFFFFFFF, 0x0D000000)] ++
  [(0xFFFC0000, 0x0E000000), (0xFFFC0000, 0x0F000000), (0xFFFFFFFE, 0x10000000)] ++
  [(0xFFFFFFFF, 0x11000000), (0xFFFFFFFF, 0x12000000), (0xFFFFFFFF, 0x13000000)] ++
  [(0xFFFFFFFF, 0x14000000), (0xFFFFFFFF, 0x15000000), (0xFF000000, 0x18000000)] ++
  [(0xFF00FFFF, 0x19000000), (0xFFFFFFFE, 0x1A000000), (0xFFC00000, 0x1B000000)] ++
  [(0xFFFFFF00, 0x1C000000), (0xFFFFFFFF, 0x20000000), (0xFFFFFFFF, 0x21000000)]

/-! ### What a command changes -/

/-- Only the engine's state and the result differ. -/
abbrev OnlyEng (r : Ret) (s t : State) : Prop := t = (s.withEng t.eng).answer r

/-- Only the tracker's state and the result differ. -/
abbrev OnlyTrk (r : Ret) (s t : State) : Prop := t = (s.withTrk t.trk).answer r

/-- Of the engine only the socket table, the number of sockets and the aggregates differ. -/
abbrev OnlySockets (s t : State) : Prop :=
  { t.eng with
    sock := s.eng.sock, numSockets := s.eng.numSockets, waitGenMem := s.eng.waitGenMem,
    waitGenIo := s.eng.waitGenIo, wait := { t.eng.wait with hold := s.eng.wait.hold } } = s.eng

/-- Socket `h` became `k`, every other socket is as before, and the aggregates are recomputed
(40_socket_table.md R146). -/
abbrev SocketBecomes (h : Nat) (k : Socket) (s t : State) : Prop :=
  OnlySockets s t ∧ t.eng.sock.length = s.eng.sock.length ∧ sockAt t h = k ∧
  (∀ j, j ≠ h → sockAt t j = sockAt s j) ∧ AggregatesOk t

/-- Socket `h` became `k` and nothing else of the engine changed. -/
abbrev OnlySocket (h : Nat) (k : Socket) (s t : State) : Prop :=
  t.eng = { s.eng with sock := t.eng.sock } ∧ t.eng.sock.length = s.eng.sock.length ∧
  sockAt t h = k ∧ (∀ j, j ≠ h → sockAt t j = sockAt s j)

/-- The sockets are as before, but for the replies that their scripts have given. -/
abbrev SocketsKept (s t : State) : Prop :=
  ∀ h, { sockAt t h with onWaitCycle := (sockAt s h).onWaitCycle } = sockAt s h

/-! ### What a released cycle changes (20_memory.md R86, R87) -/

/-- The world after the cycle `c` has ended, with page-out `paged`: the memory write that reached memory,
the recorded I/O write, and what the Z80 received. -/
abbrev CycleEnds (c : Presented) (paged : Bool) (s t : State) : Prop :=
  (∀ a, memRead a t =
    if isMemWrite (sixFlags c.flags) = true ∧ paged = false ∧ a = c.addr then c.data
    else memRead a s) ∧
  t.world.ioWrites =
    (if isIo (sixFlags c.flags) && isWrite (sixFlags c.flags) then (c.addr, c.data) :: s.world.ioWrites
     else s.world.ioWrites) ∧
  (isRead (sixFlags c.flags) = false → t.world.delivered = s.world.delivered) ∧
  (isRead (sixFlags c.flags) = true → ∃ b free, t.world.delivered = some b ∧
    t.world.z80 =
      if c.byZ80 then (z80Retire free (z80Take b s.world.z80)).2 else s.world.z80) ∧
  (isMemWrite (sixFlags c.flags) = true → ∃ free, t.world.z80 =
    if c.byZ80 then (z80Retire free (z80Wrote s.world.z80)).2 else s.world.z80) ∧
  (isRead (sixFlags c.flags) = false → isMemWrite (sixFlags c.flags) = false →
    t.world.z80 = s.world.z80)

/-! ### The bus lent to callbacks (42_bus_actions.md R216) -/

/-- From `b`, in which BUSACK was seen, the engine has mastered the bus and cleared the action: this is the
state `m` in which the completion callbacks of a BusRequest begin. -/
abbrev LendsBus (b m : State) : Prop :=
  m.eng.mastered = true ∧ m.eng.lineBusrq = true ∧ m.eng.busDriven = true ∧
  m.eng.act = BusActionState.cleared ∧ m.eng.waitGenMem = false ∧ m.eng.waitGenIo = false ∧
  m.eng.sock = b.eng.sock ∧ m.eng.numSockets = b.eng.numSockets ∧ m.eng.counters = b.eng.counters ∧
  m.trk = b.trk ∧ m.bp = b.bp ∧ m.cfg = b.cfg ∧ m.world = b.world

/-- After each of the callbacks that begin in `m` the engine still masters the bus, and no action is in
progress. -/
abbrev MasteredThroughout (reason : Byte) (m : State) : Prop :=
  ∀ n, (completeAll .busRequest reason .ok (List.range n) m).eng.mastered = true ∧
    (completeAll .busRequest reason .ok (List.range n) m).eng.lineBusrq = true ∧
    (completeAll .busRequest reason .ok (List.range n) m).eng.act = BusActionState.cleared

/-! ### The commands of a callback (40_socket_table.md R147) -/

/-- Whether a callback may issue the command; `transfer` where the engine lends it the bus. -/
def callbackMay (transfer : Bool) : Instr → Bool
  | .enableSocket _ _ | .setWaitOn _ _ _ | .setHold _ _ | .requestAction _ _ _ | .requestBus _ _ => true
  | .bpSet _ _ _ | .bpClear _ _ | .bpGlobalEnable _ | .checkForBreak _ _ => true
  | .blockRead _ _ _ | .blockWrite _ _ _ => transfer
  | .addSocket | .serviceTick | .checkPending | .startPending | .advancePending => false
  | .requestAndTake | .release | .isPrefix _ | .onWaitCycle | .onBusActionComplete => false
  | .trkEnable _ | .trkRequestGet | .trkStartSet | .trkStep | .trkRun | .trkHalt => false
  | .pushAf | .popAf | .pushIx | .pushIy | .ldAR | .ldAI | .ldRA | .ldIA | .ldMemA _ | .ldMemHl _ => false
  | .ldMemDe _ | .ldMemBc _ | .ldAN _ | .ldBcNn _ | .ldDeNn _ | .ldHlNn _ | .ldSpNn _ => false
  | .ldIxNn _ | .ldIyNn _ | .exx | .exAfAf | .im0 | .im1 | .im2 | .ei | .di | .jrD _ | .jpNn _ => false

/-! ### The tracker -/

/-- The tracker after a completed Reset (45_tracker.md R317, R328). -/
def trackerAfterReset (t : Tracker) : Tracker :=
  let t1 := { t with
    hist0 := true, hist1 := true, regsValid := false, holdArmed := false, held := false }
  if t.state = .injecting then
    let t2 := { t1 with pageOut := false, seqKind := .none, seq := [], cursor := 0 }
    if t.disablePending then
      { t2 with
        stepInto := false, haltAfter := false, wrOrdinal := 0, getRequested := false
        setRequest := none, disablePending := false, enabled := false, state := .idle }
    else { t2 with state := .awaiting }
  else t1

/-- The tracker after its callback for a Reset, NMI or IRQ, however it ended (45_tracker.md R328). -/
def trackerAfterPulse (p : Pulse) (t : Tracker) : Tracker :=
  match p with
  | .reset => trackerAfterReset t
  | .nmi | .irq => { t with disturbed := t.disturbed || decide (t.state = .injecting) }

/-- The tracker after its callback for an action that the global timeout ended (42_bus_actions.md R217,
45_tracker.md R328): a Reset, NMI or IRQ is as at its end, and its own BusRequest has failed. -/
def trackerAfterTimeout (a : BusAction) (reason : Byte) (t : Tracker) : Tracker :=
  match a with
  | .none => t
  | .reset => trackerAfterReset t
  | .nmi | .irq => trackerAfterPulse .nmi t
  | .busRequest => if reason = mirrorReason then { t with mirrorValid := false } else t

/-- The byte that the running sequence supplies next: the template's, but for the five bytes of a GET that
are computed from its captures (46_injection.md R364, R380). -/
abbrev SuppliedByte (t : Tracker) (b : Byte) : Prop :=
  (t.seqKind = .get →
    (t.cursor = 41 → b = r7sub (r7sub (capAt t.cap 2).2 3) 3) ∧
    (t.cursor = 45 → b = lo ((capAt t.cap 0).1 + 1 - 2)) ∧
    (t.cursor = 46 → b = hi ((capAt t.cap 0).1 + 1 - 2)) ∧
    (t.cursor = 48 → b = (capAt t.cap 1).2) ∧
    (t.cursor = 49 → b = (capAt t.cap 0).2) ∧
    (t.cursor ∉ [41, 45, 46, 48, 49] → t.seq[t.cursor]? = some b)) ∧
  (t.seqKind = .set → t.seq[t.cursor]? = some b)

/-- Whether the injection that ends was what its template assumes (45_tracker.md R324). -/
abbrev InjectionGood (t : Tracker) : Prop :=
  t.disturbed = false ∧
    (t.seqKind = .get ∧ t.wrOrdinal = 23 ∨ t.seqKind = .set ∧ t.wrOrdinal = 0)

/-- The tracker after the last byte of an injection, but for its switching off (45_tracker.md R324); `f` is
the cycle's flags and `b` the byte supplied. -/
def trackerAfterInjection (f : CtrlFlags) (b : Byte) (t : Tracker) : Tracker :=
  { t with
    hist1 := if flagM1 f then t.hist0 else t.hist1
    hist0 := if flagM1 f then prefixByte b else t.hist0
    pageOut := false, seqKind := .none, seq := [], cursor := 0, state := .awaiting
    holdArmed := t.holdArmed || t.haltAfter
    regsValid := decide (InjectionGood t)
    regs :=
      if InjectionGood t then
        (if t.seqKind = .set then t.setActive else decodeGet t.cap t.boundaryPc t.regs.im)
      else t.regs
    getRequested := t.getRequested && !decide (InjectionGood t ∧ t.seqKind = .set) }

/-- The tracker switched off: its requests, its hold and its sequence are gone, its snapshot and mirror are
kept (45_tracker.md R317). -/
def trackerOff (t : Tracker) : Tracker :=
  { t with
    held := false, holdArmed := false, stepInto := false, haltAfter := false
    pageOut := false, seqKind := .none, seq := [], cursor := 0, wrOrdinal := 0
    getRequested := false, setRequest := none, disablePending := false, enabled := false
    state := .idle }

/-! ### What the Z80 and the time change -/

/-- The Z80 has completed an instruction: its registers are `z`, memory is `m`, one free value was drawn,
and nothing else changed. -/
def afterZ80 (s : State) (z : Z80Regs) (m : Memory) : State :=
  s.withWorld { s.world with mem := m, z80 := z80Idle z, draws := s.world.draws + 1 }

/-- The registers after the fetches of an instruction of `n` bytes with `k` M1 fetches; the shadow of an
earlier `ei` is over (46_injection.md R361). -/
def fetched (n : BitVec 16) (k : Byte) (z : Z80Regs) : Z80Regs :=
  { z with pc := z.pc + n, r := r7add z.r k, eiShadow := false }

/-- The world but for the time and the environment's draws. -/
abbrev SameWorldButTime (s t : State) : Prop :=
  { t.world with
    clock := s.world.clock, draws := s.world.draws, timeDraws := s.world.timeDraws,
    busackDraws := s.world.busackDraws } = s.world

/-- The counters but for the three diagnostic ones (41_wait_service.md R186). -/
def Counters.noDiag (c : Counters) : Counters :=
  { c with diagSpuriousBusrq := 0, diagIrqDuringBusack := 0, diagIrqWithoutWait := 0 }

/-- What a cycle record of the settled flags `f` shows the sockets: the six flags, WAIT among them
(41_wait_service.md R175). -/
def shownFlags (f : CtrlFlags) : CtrlFlags := sixFlags f ||| 0x20

/-! ### The Z80 fed by an injection -/

/-- The Z80 fed the bytes of a running GET at the given offsets, each patched from the captures made so
far (46_injection.md R363, R364): the captures and the Z80 after them. -/
def getFeed (free : Byte) : List Nat → List (Addr × Byte) → Z80 → List (Addr × Byte) × Z80
  | [], cap, z => (cap, z)
  | k :: ks, cap, z =>
    let r := z80Feed free [getByte cap getTemplate k] z
    getFeed free ks (cap ++ r.1) r.2

/-- A whole GET on a Z80 between two instructions. -/
def getRun (free : Byte) (z : Z80Regs) : List (Addr × Byte) × Z80 :=
  getFeed free (List.range 52) [] (z80Idle z)

/-- `n` moves of the Z80, one bus cycle each. -/
def z80Cycles : Nat → State → State
  | 0, s => s
  | n + 1, s => z80Cycles n (z80Cycle s)

end Sys2Proof.Machine
end

