-- ==== Sys2Proof/Certificates/Slice0/Obligations.lean ====
section
/-! DEFINITION. The statements for the provers: one `def Obligations.<Name> : Prop` each, in the order of
OBLIGATIONS.json. Each docstring names the rules of spec/ it formalises. -/

section

open Sys2Proof Sys2Proof.Machine

/-! ### Encoding -/

/-- Every well-formed instruction, encoded, decodes to itself, with every operand at every value
(30_encoding.md R105, 46_injection.md R361). -/
def Obligations.DecodeEncodeRoundTrip : Prop :=
  ∀ i : Instr, i.wf = true → decode (encode i) = .ok i

/-- A word is a command exactly when it matches a row of the table, its reserved bits zero, and no bit of
it is dropped: encoding what it decodes to gives it back (30_encoding.md R105, R106). -/
def Obligations.CommandWordsAreTheTable : Prop :=
  (∀ w : Word32, (∃ i, decodeCommand w = .ok i) ↔ ∃ row ∈ commandRows, w &&& row.1 = row.2) ∧
  (∀ (w : Word32) (i : Instr), decodeCommand w = .ok i → i.wf = true ∧ encode i = .word w)

/-- Bytes begin with a Z80 instruction of 46_injection.md R361 exactly when they begin with its bytes, and
the decoder leaves the rest. -/
def Obligations.ZBytesDecode : Prop :=
  ∀ (bs rest : List Byte) (i : Instr),
    decodeZ80 bs = .ok (i, rest) ↔ i.isZ80 = true ∧ bs = z80Bytes i ++ rest

/-- Words written out from the rows of 30_encoding.md R105 and 46_injection.md R361. -/
def Obligations.SampleWordsDecode : Prop :=
  decodeCommand 0x03000002#32 = .ok (.setWaitOn 0 false true) ∧
  decodeCommand 0x05012203#32 = .ok (.requestAction 1 0x22 3) ∧
  decodeCommand 0x0E023C00#32 = .ok (.blockRead true false 0x3C00) ∧
  decodeCommand 0x0E013C00#32 = .ok (.blockRead false true 0x3C00) ∧
  decodeCommand 0x18831234#32 = .ok (.bpSet .slow 3 0x1234) ∧
  decodeCommand 0x1B351234#32 = .ok (.checkForBreak 0x35 0x1234) ∧
  decodeCommand 0x1C0000CB#32 = .ok (.isPrefix 0xCB) ∧
  decodeZ80 [0xED, 0x43, 0x34, 0x12] = .ok (.ldMemBc 0x1234, []) ∧
  decodeZ80 [0xFD, 0x21, 0xCD, 0xAB, 0x76] = .ok (.ldIyNn 0xABCD, [0x76]) ∧
  decodeZ80 [0x18, 0xCE] = .ok (.jrD 0xCE, [])

/-! ### The step -/

/-- A step runs the decoded instruction: a host word of the agenda, with its payload at the port; the
bytes at a free Z80's program counter; and a command word stored by `withFetchWord`. That the moves stand
in an agenda is the model's choice (log entry 7). -/
def Obligations.StepRunsDecodedInstruction : Prop :=
  (∀ (s : State) (w : Word32) (p : Payload) (ts : List Turn) (i : Instr),
    s.world.agenda = .host w p :: ts → decodeCommand w = .ok i →
    step s = exec i (atPort p (s.withWorld { s.world with agenda := ts }))) ∧
  (∀ (s : State) (ts : List Turn) (i : Instr) (rest : List Byte),
    s.world.agenda = .z80 :: ts → z80Free s = true → decodeZ80 (bytesAtPc s) = .ok (i, rest) →
    step s = exec i (s.withWorld { s.world with agenda := ts })) ∧
  (∀ (s : State) (w : Word32) (i : Instr), decodeCommand w = .ok i →
    step (s.withFetchWord 32 w.toNat) = exec i (atPort {} s))

/-- Every step answers a next state: nothing faults and nothing is refused. A host word returns a result and
the next one runs; an illegal one changes nothing else (60_exceptions.md R410, 30_encoding.md R106).
Where the word stands is the model's choice (log entry 7), and that the Z80 goes on with a free move
where the spec gives its bytes no effect (log entry 12). -/
def Obligations.HostWordsAlwaysComplete : Prop :=
  (∀ s : State, ∃ t, step s = .next t) ∧
  ∀ (s : State) (w : Word32) (p : Payload), (nextTurn s).1 = .host w p →
    ∃ t, step s = .next t ∧ t.port.issuer = .host ∧ t.port.payload = p ∧
      ((∀ i, decodeCommand w ≠ .ok i) →
        t = ((nextTurn s).2.withPort t.port) ∧ t.port.result = .error .invalidArgument)

/-! ### The socket table -/

/-- ADD_SOCKET (40_socket_table.md R140): the next slot is registered with the payload's fields and its
handle returned, or the table is full and nothing changes. -/
def Obligations.AddSocketEffect : Prop :=
  ∀ s : State, TableOk s →
    (s.eng.numSockets < s.cfg.maxSockets →
      ∃ t, exec .addSocket s = .next t ∧ OnlyEng (.ok (.handle s.eng.numSockets)) s t ∧
        t.eng.numSockets = s.eng.numSockets + 1 ∧
        SocketBecomes s.eng.numSockets
          { registered := true
            enabled := s.port.payload.info.enabled
            waitOnMemory := s.port.payload.info.waitOnMemory
            waitOnIo := s.port.payload.info.waitOnIo
            hold := s.port.payload.info.hold
            busMasterRequest := none
            actionRequest := none
            durResetUs := s.port.payload.info.durResetUs
            durNmiUs := s.port.payload.info.durNmiUs
            durIrqUs := s.port.payload.info.durIrqUs
            onWaitCycle := .script s.port.payload.info.waitReplies
            onDone := .script s.port.payload.info.doneReplies } s t) ∧
    (s.eng.numSockets = s.cfg.maxSockets →
      exec .addSocket s = .next (s.answer (.error .resourceExhausted)))

/-- ENABLE_SOCKET, SET_WAIT_ON and SET_HOLD on a registered socket write its flags and recompute the
aggregates; everything else is unchanged, and a handle that is not registered is refused
(40_socket_table.md R141 to R143, R146). -/
def Obligations.SocketFlagCommandsEffect : Prop :=
  ∀ (s : State) (h : BitVec 8), TableOk s →
    (h.toNat < s.eng.numSockets →
      (∀ e, ∃ t, exec (.enableSocket h e) s = .next t ∧ OnlyEng okNone s t ∧
        t.eng.numSockets = s.eng.numSockets ∧
        SocketBecomes h.toNat { sockAt s h.toNat with enabled := e } s t) ∧
      (∀ m i, ∃ t, exec (.setWaitOn h m i) s = .next t ∧ OnlyEng okNone s t ∧
        t.eng.numSockets = s.eng.numSockets ∧
        SocketBecomes h.toNat { sockAt s h.toNat with waitOnMemory := m, waitOnIo := i } s t) ∧
      (∀ d, ∃ t, exec (.setHold h d) s = .next t ∧ OnlyEng okNone s t ∧
        t.eng.numSockets = s.eng.numSockets ∧
        SocketBecomes h.toNat { sockAt s h.toNat with hold := d } s t)) ∧
    (s.eng.numSockets ≤ h.toNat → ∀ e m i d : Bool,
      exec (.enableSocket h e) s = .next (s.answer invalid) ∧
      exec (.setWaitOn h m i) s = .next (s.answer invalid) ∧
      exec (.setHold h d) s = .next (s.answer invalid))

/-- REQUEST_ACTION and REQUEST_BUS record one request with its reason, and nothing else changes; a handle
that is not registered and action 0 are refused, and a request that stands makes the next one Busy
(40_socket_table.md R144, R145). -/
def Obligations.RequestsAreRecorded : Prop :=
  ∀ (s : State) (h : BitVec 8) (reason : Byte), TableOk s →
    (h.toNat < s.eng.numSockets →
      (∀ (act : BitVec 2) (p : Pulse),
        (act = 1 ∧ p = .reset ∨ act = 2 ∧ p = .nmi ∨ act = 3 ∧ p = .irq) →
        ((sockAt s h.toNat).actionRequest = none →
          ∃ t, exec (.requestAction h reason act) s = .next t ∧ OnlyEng okNone s t ∧
            OnlySocket h.toNat { sockAt s h.toNat with actionRequest := some (p, reason) } s t) ∧
        ((sockAt s h.toNat).actionRequest ≠ none →
          exec (.requestAction h reason act) s = .next (s.answer busy))) ∧
      ((sockAt s h.toNat).busMasterRequest = none →
        ∃ t, exec (.requestBus h reason) s = .next t ∧ OnlyEng okNone s t ∧
          OnlySocket h.toNat { sockAt s h.toNat with busMasterRequest := some reason } s t) ∧
      ((sockAt s h.toNat).busMasterRequest ≠ none →
        exec (.requestBus h reason) s = .next (s.answer busy))) ∧
    exec (.requestAction h reason 0) s = .next (s.answer invalid) ∧
    (s.eng.numSockets ≤ h.toNat →
      (∀ act : BitVec 2, exec (.requestAction h reason act) s = .next (s.answer invalid)) ∧
      exec (.requestBus h reason) s = .next (s.answer invalid))

/-- The causes of InvalidArgument and of Busy, each with no state change (60_exceptions.md R415, R416). A
block transfer of no byte is Ok before mastership is looked at (43_mastership_block_io.md R255), so
that cause needs a byte. The illegal words are in `HostWordsAlwaysComplete`, the commands a callback
may not make in `CallbackRefusals`. -/
def Obligations.RefusedCommandsChangeNothing : Prop :=
  ∀ s : State,
    (∀ (h : BitVec 8) (e m i d : Bool) (reason : Byte) (act : BitVec 2),
      s.eng.numSockets ≤ h.toNat →
      exec (.enableSocket h e) s = .next (s.answer invalid) ∧
      exec (.setWaitOn h m i) s = .next (s.answer invalid) ∧
      exec (.setHold h d) s = .next (s.answer invalid) ∧
      exec (.requestAction h reason act) s = .next (s.answer invalid) ∧
      exec (.requestBus h reason) s = .next (s.answer invalid)) ∧
    (∀ (h : BitVec 8) (reason : Byte), exec (.requestAction h reason 0) s = .next (s.answer invalid)) ∧
    (∀ (t : BpTable) (idx : Nat) (pc : Addr), bpSize t s.cfg ≤ idx →
      exec (.bpSet t idx pc) s = .next (s.answer invalid) ∧
      exec (.bpClear t idx) s = .next (s.answer invalid)) ∧
    (s.eng.mastered = false → exec .release s = .next (s.answer invalid)) ∧
    (∀ (auto io : Bool) (addr : Addr),
      (65536 < s.port.payload.len ∨
        0 < s.port.payload.len ∧ s.eng.mastered = false ∧ auto = false →
        exec (.blockRead auto io addr) s = .next (s.answer invalid)) ∧
      (65536 < s.port.payload.buf.length ∨
        0 < s.port.payload.buf.length ∧ s.eng.mastered = false ∧ auto = false →
        exec (.blockWrite auto io addr) s = .next (s.answer invalid))) ∧
    (s.trk.enabled = false →
      exec .trkRequestGet s = .next (s.answer invalid) ∧
      exec .trkStartSet s = .next (s.answer invalid) ∧
      exec .trkStep s = .next (s.answer invalid) ∧
      exec .trkRun s = .next (s.answer invalid) ∧
      exec .trkHalt s = .next (s.answer invalid)) ∧
    (¬ imSettable s.port.payload.regs.im → exec .trkStartSet s = .next (s.answer invalid)) ∧
    (s.port.issuer = .host →
      exec .onWaitCycle s = .next (s.answer invalid) ∧
      exec .onBusActionComplete s = .next (s.answer invalid)) ∧
    (∀ (h : BitVec 8) (reason : Byte) (act : BitVec 2),
      h.toNat < s.eng.numSockets → act ≠ 0 → (sockAt s h.toNat).actionRequest ≠ none →
      exec (.requestAction h reason act) s = .next (s.answer busy)) ∧
    (∀ (h : BitVec 8) (reason : Byte),
      h.toNat < s.eng.numSockets → (sockAt s h.toNat).busMasterRequest ≠ none →
      exec (.requestBus h reason) s = .next (s.answer busy)) ∧
    (s.eng.mastered = true ∨ s.eng.act.status ≠ .none →
      exec .requestAndTake s = .next (s.answer busy)) ∧
    (∀ (io : Bool) (addr : Addr), s.eng.mastered = false → s.eng.act.status ≠ .none →
      (0 < s.port.payload.len → s.port.payload.len ≤ 65536 →
        exec (.blockRead true io addr) s = .next (s.answer busy)) ∧
      (0 < s.port.payload.buf.length → s.port.payload.buf.length ≤ 65536 →
        exec (.blockWrite true io addr) s = .next (s.answer busy)))

/-- The commands a callback may make have the effect they have from the host, and every other word is
refused and changes nothing (40_socket_table.md R147, 60_exceptions.md R415). Inside `on_wait_cycle`
no block transfer runs; inside `on_bus_action_complete` one runs only for a BusRequest with outcome
Ok. That ADD_SOCKET, IS_PREFIX and the TRK commands are among the refused, and so that no callback word
changes the tracker or the number of sockets, is the model's reading of R147 (log entry 19): the head
of 40_socket_table.md says more. -/
def Obligations.CallbackRefusals : Prop :=
  ∀ (s : State) (mayTransfer : Bool) (c : CbCommand),
    (∀ i, decodeCommand c.word = .ok i →
      i ∈ [.serviceTick, .checkPending, .startPending, .advancePending, .requestAndTake, .release] →
      callbackCommand mayTransfer c s = (invalid, s)) ∧
    (∀ auto io addr,
      decodeCommand c.word = .ok (.blockRead auto io addr) ∨
        decodeCommand c.word = .ok (.blockWrite auto io addr) →
      callbackCommand false c s = (invalid, s)) ∧
    ((callbackCommand mayTransfer c s).2.eng.act = s.eng.act ∧
      (callbackCommand mayTransfer c s).2.trk = s.trk ∧
      (callbackCommand mayTransfer c s).2.eng.numSockets = s.eng.numSockets ∧
      (callbackCommand mayTransfer c s).2.world.calls = s.world.calls ∧
      (callbackCommand false c s).2.world = s.world ∧
      (callbackCommand false c s).2.eng.mastered = s.eng.mastered) ∧
    (∀ i, decodeCommand c.word = .ok i → callbackMay mayTransfer i = false →
      callbackCommand mayTransfer c s = (invalid, s)) ∧
    ((∀ i, decodeCommand c.word ≠ .ok i) → callbackCommand mayTransfer c s = (invalid, s)) ∧
    (∀ i, decodeCommand c.word = .ok i → callbackMay mayTransfer i = true →
      s.port.payload.len = c.len → s.port.payload.buf = c.buf → s.port.payload.msg = c.msg →
      exec i s =
        .next ((callbackCommand mayTransfer c s).2.answer (callbackCommand mayTransfer c s).1)) ∧
    (∀ (h : Nat) (addr : Addr) (data : Byte) (f : CtrlFlags) (d : Decision) (rs : List WaitReply),
      (sockAt s h).onWaitCycle = .script ({ cmds := [c], decision := d } :: rs) →
      ∃ u, u = setSock h { sockAt s h with onWaitCycle := .script rs }
          (logCall (.waitCycle h addr data f) s) ∧
        callWait h addr data f s =
          (d, logCall (.command h c.word (callbackCommand false c u).1) (callbackCommand false c u).2)) ∧
    (∀ (h : Nat) (a : BusAction) (reason : Byte) (o : ActOutcome) (rs : List (List CbCommand)),
      (sockAt s h).onDone = .script ([c] :: rs) →
      ∃ (u : State) (m : Bool), (m = true ↔ a = .busRequest ∧ o = .ok) ∧
        u = setSock h { sockAt s h with onDone := .script rs } (logCall (.complete h a reason o) s) ∧
        callDone a reason o h s =
          logCall (.command h c.word (callbackCommand m c u).1) (callbackCommand m c u).2) ∧
    (∀ (h : Nat) (cs : List CbCommand),
      runCallbackCommands h mayTransfer (c :: cs) s =
        runCallbackCommands h mayTransfer cs
          (logCall (.command h c.word (callbackCommand mayTransfer c s).1)
            (callbackCommand mayTransfer c s).2))

/-! ### The wait service -/

/-- A tick services a fresh wait whose lines settle (41_wait_service.md R172 to R181, 20_memory.md R85 to
R87): the enabled sockets are called once each, in order, with the same cycle, the tracker first; the
tracker's new state is the one its callback gives, and its injected byte is driven; the merged decision
is driven on a read, and with none a memory read receives memory; a memory write reaches memory unless
it is paged out; the wait is released, the cycle counted and the Z80 goes on. Where nothing is asked of
the arbiter the tick ends there (else see `TickTakesAndEndsActions`). Two readings are the model's: that
page-out is read when the cycle ends (log entry 28), and that the first valid sample is the cycle's own,
so that the sockets see the cycle's own flags whatever its samples list (log entry 38, where R173 alone
says that the first valid sample is kept). What a callback that issues commands does is in
`FanOutCallsInOrder` and `CallbackRefusals`. -/
def Obligations.TickServicesCycle : Prop :=
  ∀ (s : State) (c : Presented) (g0 g1 : Nat) (gs : List Nat),
    FreshWait c s → Answering s → MemoryOk s → s.world.timeDraws = g0 :: g1 :: gs →
    (∀ data, (trackerTurn c.addr data (shownFlags c.flags) s).2.eng.wait.hold = false) →
    ∃ (t u : State) (data : Byte) (r : Decision × State) (ds : List Decision),
      exec .serviceTick s = .next t ∧ t.port = { s.port with result := okNone } ∧ u = afterWait s ∧
      r = trackerTurn c.addr data (shownFlags c.flags) s ∧
      ds = decisionsAt c.addr data (shownFlags c.flags) s ∧
      (NoActions r.2 → t = u.answer okNone) ∧
      (isRead (sixFlags c.flags) = false → data = c.data) ∧
      (isMemRead (sixFlags c.flags) = true → s.trk.pageOut = false → data = memRead c.addr s) ∧
      waitCalls u =
        ((enabledHandles s).map (fun h =>
          CallRecord.waitCycle h c.addr data (shownFlags c.flags))).reverse ++ waitCalls s ∧
      doneCalls u = doneCalls s ∧
      u.eng.wait =
        { r.2.eng.wait with
          asserted := false, held := false, assertedAt := s.world.clock + g0, cycleLength := g1
          cur := { addr := c.addr, data := data, flags := shownFlags c.flags
                   merged := mergeDecisions ds } } ∧
      u.world.present = none ∧ u.world.clock = s.world.clock + g0 + g1 ∧ u.world.timeDraws = gs ∧
      (∀ b, isRead (sixFlags c.flags) = true → byteOfDecision (mergeDecisions ds) = some b →
        u.world.delivered = some b) ∧
      (∀ b, isRead (sixFlags c.flags) = true → r.1 = .injectOpcode b → u.world.delivered = some b) ∧
      (isMemRead (sixFlags c.flags) = true → r.2.trk.pageOut = false →
        mergeDecisions ds = .notDecoded → u.world.delivered = some (memRead c.addr s)) ∧
      CycleEnds c r.2.trk.pageOut s u ∧
      u.eng.counters.noDiag = (countCycle (sixFlags c.flags) g1 s.eng.counters).noDiag ∧
      { u.eng with
        sock := r.2.eng.sock, wait := r.2.eng.wait, counters := r.2.eng.counters } = r.2.eng ∧
      SocketsKept r.2 u ∧ u.trk = r.2.trk ∧ u.bp = s.bp ∧ u.cfg = s.cfg

/-- The counters of a serviced cycle (41_wait_service.md R181, 10_state.md R28): one more cycle, one more
of its one category, and the latency sum, maximum and average. -/
def Obligations.CountersOfACycle : Prop :=
  ∀ (f : CtrlFlags) (len : Nat) (c : Counters), len < 2 ^ 32 →
    (countCycle f len c).total = c.total + 1 ∧
    (countCycle f len c).mreqRd = c.mreqRd + (if isMemRead f then 1 else 0) ∧
    (countCycle f len c).mreqWr = c.mreqWr + (if isMemWrite f then 1 else 0) ∧
    (countCycle f len c).irqAck = c.irqAck + (if isIrqAck f then 1 else 0) ∧
    (countCycle f len c).iorqRd = c.iorqRd + (if isIo f && isRead f then 1 else 0) ∧
    (countCycle f len c).iorqWr = c.iorqWr + (if isIo f && isWrite f then 1 else 0) ∧
    (countCycle f len c).latSumUs.toNat = (c.latSumUs.toNat + len) % 2 ^ 32 ∧
    (countCycle f len c).latMaxUs.toNat = max c.latMaxUs.toNat len ∧
    (c.total.toNat + 1 < 2 ^ 32 →
      (countCycle f len c).latAvgUs.toNat =
        ((c.latSumUs.toNat + len) % 2 ^ 32) / (c.total.toNat + 1)) ∧
    (c.total.toNat + 1 = 2 ^ 32 → (countCycle f len c).latAvgUs = c.latAvgUs) ∧
    (countCycle f len c).decodeTimeout = c.decodeTimeout ∧
    (countCycle f len c).diagSpuriousBusrq = c.diagSpuriousBusrq ∧
    (countCycle f len c).diagIrqDuringBusack = c.diagIrqDuringBusack ∧
    (countCycle f len c).diagIrqWithoutWait = c.diagIrqWithoutWait

/-- With a hold requested after the sockets' turns, a tick decodes the cycle, calls the sockets and keeps the
wait: the cycle is not completed or counted, and no action is taken, whatever is asked for
(41_wait_service.md R170, R177). The tracker's new state is the one its callback gives. That the flags
shown and recorded are the cycle's own, also where an earlier listed sample is another valid
combination, is the model's reading (log entry 38). The hold is one that stood before the fan-out or one
that the tracker takes in it; for a callback that issues commands see `FanOutCallsInOrder`. -/
def Obligations.TickKeepsHeldCycle : Prop :=
  ∀ (s : State) (c : Presented), FreshWait c s → Answering s →
    (∀ data, (trackerTurn c.addr data (shownFlags c.flags) s).2.eng.wait.hold = true) →
    ∃ (t u : State) (data : Byte) (r : Decision × State),
      exec .serviceTick s = .next t ∧ t.port = { s.port with result := okNone } ∧ u = afterWait s ∧
      r = trackerTurn c.addr data (shownFlags c.flags) s ∧
      (s.eng.act.status = .none → t = u.answer okNone) ∧
      (isRead (sixFlags c.flags) = false → data = c.data) ∧
      (isMemRead (sixFlags c.flags) = true → s.trk.pageOut = false → data = memRead c.addr s) ∧
      u.eng.wait =
        { r.2.eng.wait with
          asserted := true, held := true, hold := true, assertedAt := u.world.clock
          cur := { addr := c.addr, data := data, flags := shownFlags c.flags
                   merged := mergeDecisions (decisionsAt c.addr data (shownFlags c.flags) s) } } ∧
      waitCalls u =
        ((enabledHandles s).map (fun h =>
          CallRecord.waitCycle h c.addr data (shownFlags c.flags))).reverse ++ waitCalls s ∧
      doneCalls u = doneCalls s ∧
      u.world.present = some { c with settle := [] } ∧ u.world.delivered = s.world.delivered ∧
      u.world.mem = s.world.mem ∧ u.world.ioWrites = s.world.ioWrites ∧ u.world.z80 = s.world.z80 ∧
      u.eng.counters.noDiag = s.eng.counters.noDiag ∧
      { u.eng with
        sock := r.2.eng.sock, wait := r.2.eng.wait, counters := r.2.eng.counters } = r.2.eng ∧
      SocketsKept r.2 u ∧ u.trk = r.2.trk ∧ u.bp = s.bp ∧ u.cfg = s.cfg

/-- When every hold has been dropped, the next tick completes the held cycle with the decision recorded
for it, and calls no socket again (41_wait_service.md R171, R179): the recorded byte is driven on a
read, and with none a memory read receives memory; a held write reaches memory unless it is paged out;
the Z80 goes on; nothing else changes (20_memory.md R86, R87). That page-out is read now, when the held
cycle ends, is the model's reading (log entry 28, unsafe for just these cycles). -/
def Obligations.HeldCycleCompletes : Prop :=
  ∀ (s : State) (c : Presented) (g : Nat) (gs : List Nat), MemoryOk s →
    s.eng.wait.asserted = true → s.eng.wait.held = true → s.eng.wait.hold = false →
    s.world.present = some c → s.world.timeDraws = g :: gs →
    ∃ t u : State, exec .serviceTick s = .next t ∧ t.port = { s.port with result := okNone } ∧
      u = afterWait s ∧ (NoActions s → t = u.answer okNone) ∧
      waitCalls u = waitCalls s ∧ doneCalls u = doneCalls s ∧
      u.eng.wait =
        { s.eng.wait with
          asserted := false, held := false
          cycleLength := s.world.clock + g - s.eng.wait.assertedAt } ∧
      u.world.present = none ∧
      (∀ b, isRead s.eng.wait.cur.flags = true → isRead (sixFlags c.flags) = true →
        byteOfDecision s.eng.wait.cur.merged = some b → u.world.delivered = some b) ∧
      (isMemRead (sixFlags c.flags) = true → s.trk.pageOut = false →
        s.eng.wait.cur.merged = .notDecoded → u.world.delivered = some (memRead c.addr s)) ∧
      CycleEnds c s.trk.pageOut s u ∧
      u.eng.counters.noDiag =
        (countCycle s.eng.wait.cur.flags (s.world.clock + g - s.eng.wait.assertedAt)
          s.eng.counters).noDiag ∧
      { u.eng with wait := s.eng.wait, counters := s.eng.counters } = s.eng ∧
      u.trk = s.trk ∧ u.bp = s.bp ∧ u.cfg = s.cfg

/-- While a wait is asserted and not to be completed, a tick neither decodes nor releases it, and takes no
new action (41_wait_service.md R170, R184). -/
def Obligations.HeldCycleStays : Prop :=
  ∀ s : State, s.eng.wait.asserted = true → s.eng.wait.held = false ∨ s.eng.wait.hold = true →
    ∃ t, exec .serviceTick s = .next t ∧ t.port.result = okNone ∧
      waitCalls t = waitCalls s ∧ t.eng.wait.asserted = true ∧ t.eng.wait.held = s.eng.wait.held ∧
      t.eng.wait.cur = s.eng.wait.cur ∧ t.world.present = s.world.present ∧
      t.world.delivered = s.world.delivered ∧ t.world.mem = s.world.mem ∧
      t.world.z80 = s.world.z80 ∧ t.eng.counters.noDiag = s.eng.counters.noDiag ∧
      t.eng.mastered = s.eng.mastered ∧
      (t.eng.act = s.eng.act ∨ t.eng.act = BusActionState.cleared)

/-- A cycle that does not settle within `SETTLE_RETRIES` samples is counted and released, and shown to no
socket (41_wait_service.md R174): the engine drives nothing, so a memory read receives memory and a
memory write still reaches it unless it is paged out (20_memory.md R86, R87), and of the block only the
counters and the wait's time differ. Two readings are the model's: that a cycle whose own flags are no
valid combination never settles, whatever its samples list (log entry 38, where R173 alone says that
the first valid sample is kept), and that page-out is read when the cycle ends, which is this tick (log
entry 28). -/
def Obligations.SettleTimeoutReleases : Prop :=
  ∀ (s : State) (c : Presented), MemoryOk s →
    s.eng.wait.asserted = false → s.world.present = some c →
    s.world.busackDraws.head? = some false →
    validSettled (sixFlags c.flags) = false ∨ s.cfg.settleRetries ≤ unsettled c →
    ∃ t u : State, exec .serviceTick s = .next t ∧ t.port = { s.port with result := okNone } ∧
      u = afterWait s ∧ (NoActions s → t = u.answer okNone) ∧
      waitCalls u = waitCalls s ∧ doneCalls u = doneCalls s ∧ u.world.present = none ∧
      u.eng.counters.noDiag =
        { s.eng.counters with decodeTimeout := s.eng.counters.decodeTimeout + 1 }.noDiag ∧
      (isMemRead (sixFlags c.flags) = true → s.trk.pageOut = false →
        u.world.delivered = some (memRead c.addr s)) ∧
      CycleEnds c s.trk.pageOut s u ∧
      u.eng.wait = { s.eng.wait with asserted := false, assertedAt := u.world.clock } ∧
      { u.eng with wait := s.eng.wait, counters := s.eng.counters } = s.eng ∧
      u.trk = s.trk ∧ u.bp = s.bp ∧ u.cfg = s.cfg

/-- A tick with no wait, or with WAIT seen together with BUSACK, and with no action and no request changes
nothing but draws and the diagnostic counters: nothing is latched and no socket is called
(41_wait_service.md R170, R172, R186). -/
def Obligations.IdleTickChangesNothing : Prop :=
  ∀ s : State, s.eng.wait.asserted = false →
    s.world.present = none ∨ s.world.busackDraws.head? = some true → NoActions s →
    ∃ t, exec .serviceTick s = .next t ∧ t.port = { s.port with result := okNone } ∧
      { t.eng with counters := s.eng.counters } = s.eng ∧
      t.eng.counters.noDiag = s.eng.counters.noDiag ∧ t.trk = s.trk ∧ t.bp = s.bp ∧ t.cfg = s.cfg ∧
      { t.world with
        draws := s.world.draws, busackDraws := s.world.busackDraws,
        diagDraws := s.world.diagDraws } = s.world

/-- The merge of a fan-out: the first InjectOpcode, else the first Value, else nothing
(41_wait_service.md R177). -/
def Obligations.MergeTakesFirstInjectThenFirstValue : Prop :=
  ∀ ds : List Decision,
    (∀ (k : Nat) (b : Byte), ds[k]? = some (Decision.injectOpcode b) →
      (∀ j, j < k → ∀ b', ds[j]? ≠ some (Decision.injectOpcode b')) →
      mergeDecisions ds = .injectOpcode b) ∧
    (∀ (k : Nat) (b : Byte), (∀ b', Decision.injectOpcode b' ∉ ds) →
      ds[k]? = some (Decision.value b) → (∀ j, j < k → ∀ b', ds[j]? ≠ some (Decision.value b')) →
      mergeDecisions ds = .value b) ∧
    ((∀ d ∈ ds, d = .notDecoded) → mergeDecisions ds = .notDecoded)

/-- A fan-out calls sockets in registration order, each at most once, all with the same cycle; where no
collaborator's callback issues a command these are exactly the enabled ones, and their answers the
decisions, the tracker's own among them (41_wait_service.md R176, 20_memory.md R90). Turn by turn, with
`turn h` the state when socket `h`'s turn comes: `enabled` is read in that state, a socket that an
earlier callback disabled is not called and decides nothing, and one that it enabled is. -/
def Obligations.FanOutCallsInOrder : Prop :=
  ∀ (s : State) (addr : Addr) (data : Byte) (f : CtrlFlags),
    (∃ called : List Nat, called.Sublist (handles s) ∧
      waitCalls (fanOut addr data f (handles s) s).2 =
        (called.map (fun h => CallRecord.waitCycle h addr data f)).reverse ++ waitCalls s ∧
      (fanOut addr data f (handles s) s).1.length = s.eng.numSockets) ∧
    (Answering s →
      waitCalls (fanOut addr data f (handles s) s).2 =
        ((enabledHandles s).map (fun h => CallRecord.waitCycle h addr data f)).reverse ++
          waitCalls s ∧
      (fanOut addr data f (handles s) s).1 = decisionsAt addr data f s ∧
      (fanOut addr data f (handles s) s).2.trk = (trackerTurn addr data f s).2.trk ∧
      SocketsKept (trackerTurn addr data f s).2 (fanOut addr data f (handles s) s).2) ∧
    (∃ turn : Nat → State, turn 0 = s ∧
      turn s.eng.numSockets = (fanOut addr data f (handles s) s).2 ∧
      ∀ h, h < s.eng.numSockets →
        ((sockAt (turn h) h).enabled = true →
          (fanOut addr data f (handles s) s).1[h]? = some (callWait h addr data f (turn h)).1 ∧
          turn (h + 1) = (callWait h addr data f (turn h)).2 ∧
          waitCalls (turn (h + 1)) = CallRecord.waitCycle h addr data f :: waitCalls (turn h)) ∧
        ((sockAt (turn h) h).enabled = false →
          (fanOut addr data f (handles s) s).1[h]? = some .notDecoded ∧ turn (h + 1) = turn h))

/-! ### Bus actions -/

/-- CHECK_PENDING while an action is in progress, while the bus is mastered or with nothing asked for,
START_PENDING with nothing pending, and ADVANCE_PENDING with no Reset, NMI or IRQ asserted, are no-ops
(42_bus_actions.md R210, R212 to R214). -/
def Obligations.ArbiterNoOps : Prop :=
  ∀ s : State,
    (s.eng.act.status ≠ .none ∨ s.eng.mastered = true ∨ NoActions s →
      exec .checkPending s = .next (s.answer okNone)) ∧
    (s.eng.act.status ≠ .pending → exec .startPending s = .next (s.answer okNone)) ∧
    (s.eng.act.status ≠ .asserted ∨ s.eng.act.action = .none ∨ s.eng.act.action = .busRequest →
      exec .advancePending s = .next (s.answer okNone))

/-- CHECK_PENDING takes the request of the lowest handle that has one, a Reset, NMI or IRQ before a
BusRequest, consumes it and records the time (42_bus_actions.md R212, 60_exceptions.md R423). -/
def Obligations.CheckPendingTakesLowest : Prop :=
  ∀ (s : State) (h : Nat), TableOk s → s.eng.act.status = .none → s.eng.mastered = false →
    h < s.eng.numSockets →
    (∀ j, j < h → (sockAt s j).actionRequest = none ∧ (sockAt s j).busMasterRequest = none) →
    (∀ p reason, (sockAt s h).actionRequest = some (p, reason) →
      ∃ t, exec .checkPending s = .next t ∧
        t.eng = { s.eng with
          sock := s.eng.sock.set h { sockAt s h with actionRequest := none }
          act := { status := .pending, action := actionOfPulse p, socket := h, reason := reason
                   startTime := (now s).1, assertedAt := 0, durationUs := 0 } } ∧
        t.world = (now s).2.world ∧ t = ((s.withEng t.eng).withWorld t.world).answer okNone) ∧
    (∀ reason, (sockAt s h).actionRequest = none → (sockAt s h).busMasterRequest = some reason →
      ∃ t, exec .checkPending s = .next t ∧
        t.eng = { s.eng with
          sock := s.eng.sock.set h { sockAt s h with busMasterRequest := none }
          act := { status := .pending, action := .busRequest, socket := h, reason := reason
                   startTime := (now s).1, assertedAt := 0, durationUs := 0 } } ∧
        t.world = (now s).2.world ∧ t = ((s.withEng t.eng).withWorld t.world).answer okNone)

/-- START_PENDING of a Reset, NMI or IRQ asserts its line for the requester's duration from now on; RESET
restarts the Z80 (42_bus_actions.md R213, 70_reset_and_hazards.md R453, R454). That asserting RESET
restarts the Z80 at once is the model's choice (log entry 6). -/
def Obligations.StartPendingAssertsPulse : Prop :=
  ∀ (s : State) (p : Pulse), s.eng.act.status = .pending → s.eng.act.action = actionOfPulse p →
    ∃ t, exec .startPending s = .next t ∧
      t.eng = { s.eng with
        lineReset := s.eng.lineReset || decide (p = .reset)
        lineNmi := s.eng.lineNmi || decide (p = .nmi)
        lineIrq := s.eng.lineIrq || decide (p = .irq)
        act := { s.eng.act with
          status := .asserted
          assertedAt := t.world.clock
          durationUs :=
            match p with
            | .reset => (sockAt s s.eng.act.socket).durResetUs
            | .nmi => (sockAt s s.eng.act.socket).durNmiUs
            | .irq => (sockAt s s.eng.act.socket).durIrqUs } } ∧
      s.world.clock ≤ t.world.clock ∧
      t = ((s.withEng t.eng).withWorld t.world).answer okNone ∧
      t.world.mem = s.world.mem ∧ t.world.calls = s.world.calls ∧
      (p ≠ .reset → t.world = (now s).2.world) ∧
      (p = .reset →
        t.world.z80.regs.pc = 0 ∧ t.world.z80.regs.im = .im0 ∧ t.world.z80.regs.iff1 = false ∧
        t.world.z80.regs.iff2 = false ∧ t.world.z80.rx = [] ∧ t.world.z80.wr = 0)

/-- A BusRequest that is acknowledged: the action is cleared, every registered socket is called with
outcome Ok while the engine masters the bus, and the bus is given back; the tracker's own request
copies memory into the mirror (42_bus_actions.md R215, R216, 45_tracker.md R330). The state `m` is the
one in which the callbacks begin, with the action cleared before them. -/
def Obligations.BusRequestGranted : Prop :=
  ∀ s : State, SocketsOk s → s.eng.act.status = .pending → s.eng.act.action = .busRequest →
    s.eng.mastered = false → (awaitBusack s).1 = true →
    ∃ t, exec .startPending s = .next t ∧ t.port.result = okNone ∧
      t.eng.act = BusActionState.cleared ∧ t.eng.mastered = false ∧ t.eng.lineBusrq = false ∧
      t.eng.busDriven = false ∧ t.eng.skipRefreshPrimed = true ∧ SocketsOk t ∧
      t.eng.lineReset = s.eng.lineReset ∧ t.eng.lineNmi = s.eng.lineNmi ∧
      t.eng.lineIrq = s.eng.lineIrq ∧ t.eng.counters = s.eng.counters ∧
      t.eng.numSockets = s.eng.numSockets ∧ waitCalls t = waitCalls s ∧
      doneCalls t =
        allNotified .busRequest s.eng.act.reason .ok s.eng.numSockets ++ doneCalls s ∧
      (s.eng.act.reason = mirrorReason →
        t.trk = { s.trk with mirror := s.world.mem, mirrorValid := true }) ∧
      (s.eng.act.reason ≠ mirrorReason → t.trk = s.trk) ∧
      ∃ m, LendsBus (awaitBusack s).2 m ∧ MasteredThroughout s.eng.act.reason m ∧
        t = (releaseMastership (notifyAll .busRequest s.eng.act.reason .ok m)).answer okNone

/-- A BusRequest that is never acknowledged: BUSRQ is deasserted and the action cleared, then every
registered socket is called with BusRequestFailed and the original reason, and the result is NoBusAck
(42_bus_actions.md R216, R219, 60_exceptions.md R411). The state `m` is the one in which the callbacks
begin. -/
def Obligations.BusRequestFails : Prop :=
  ∀ s : State, SocketsOk s → s.eng.act.status = .pending → s.eng.act.action = .busRequest →
    s.eng.mastered = false → (awaitBusack s).1 = false →
    ∃ t, exec .startPending s = .next t ∧ t.port.result = .noBusAck ∧
      t.eng.act = BusActionState.cleared ∧ t.eng.mastered = false ∧ t.eng.lineBusrq = false ∧
      t.eng.skipRefreshPrimed = s.eng.skipRefreshPrimed ∧ SocketsOk t ∧
      t.eng.numSockets = s.eng.numSockets ∧ t.world.mem = s.world.mem ∧ waitCalls t = waitCalls s ∧
      doneCalls t =
        allNotified .busRequest s.eng.act.reason .busRequestFailed s.eng.numSockets ++ doneCalls s ∧
      (s.eng.act.reason = mirrorReason → t.trk = { s.trk with mirrorValid := false }) ∧
      (s.eng.act.reason ≠ mirrorReason → t.trk = s.trk) ∧
      ∃ m, m = (awaitBusack s).2.withEng
          { s.eng with lineBusrq := false, act := BusActionState.cleared } ∧
        t = (notifyAll .busRequest s.eng.act.reason .busRequestFailed m).answer .noBusAck

/-- ADVANCE_PENDING of an asserted Reset, NMI or IRQ: before its duration has passed nothing but time
changes; then the line is deasserted, every registered socket called with outcome Ok and the
original reason, and the action cleared (42_bus_actions.md R214, R215). The tracker is among them: a
Reset ends its injection, an NMI or IRQ disturbs it (45_tracker.md R328). -/
def Obligations.AdvancePendingEnds : Prop :=
  ∀ (s : State) (p : Pulse), SocketsOk s → s.eng.act.status = .asserted →
    s.eng.act.action = actionOfPulse p →
    ((now s).1 - s.eng.act.assertedAt < s.eng.act.durationUs →
      exec .advancePending s = .next ((now s).2.answer okNone)) ∧
    (s.eng.act.durationUs ≤ (now s).1 - s.eng.act.assertedAt →
      ∃ t, exec .advancePending s = .next t ∧ t.port.result = okNone ∧
        t.eng.act = BusActionState.cleared ∧
        t.eng.lineReset = (s.eng.lineReset && decide (p ≠ .reset)) ∧
        t.eng.lineNmi = (s.eng.lineNmi && decide (p ≠ .nmi)) ∧
        t.eng.lineIrq = (s.eng.lineIrq && decide (p ≠ .irq)) ∧
        t.eng.lineBusrq = s.eng.lineBusrq ∧ t.eng.mastered = s.eng.mastered ∧ SocketsOk t ∧
        t.eng.numSockets = s.eng.numSockets ∧ t.eng.counters = s.eng.counters ∧
        t.world.mem = s.world.mem ∧ t.world.z80 = s.world.z80 ∧
        t.world.present = s.world.present ∧ waitCalls t = waitCalls s ∧
        doneCalls t =
          allNotified (actionOfPulse p) s.eng.act.reason .ok s.eng.numSockets ++ doneCalls s ∧
        t.trk = trackerAfterPulse p s.trk)

/-- A tick ends an action in progress for longer than `ACTION_TIMEOUT_US`: its line is deasserted, the
action cleared, and every registered socket called with ActionTimedOut (42_bus_actions.md R217). The
tick is one that keeps a held cycle, so that no other action is taken in it; `TickTakesAndEndsActions`
says it of every tick. -/
def Obligations.TickTimesOutAction : Prop :=
  ∀ (s : State) (g0 g1 : Nat) (gs : List Nat), SocketsOk s →
    s.eng.wait.asserted = true → s.eng.wait.held = true → s.eng.wait.hold = true →
    (s.eng.act.status = .pending ∧ s.world.timeDraws = g1 :: gs ∧ g0 = 0 ∨
      s.eng.act.status = .asserted ∧ (∃ p, s.eng.act.action = actionOfPulse p) ∧
      s.world.timeDraws = g0 :: g1 :: gs ∧
      s.world.clock + g0 - s.eng.act.assertedAt < s.eng.act.durationUs) →
    ∃ t, exec .serviceTick s = .next t ∧ t.port.result = okNone ∧
      (s.world.clock + g0 + g1 - s.eng.act.startTime ≤ s.cfg.actionTimeoutUs →
        t.eng.act = s.eng.act ∧ doneCalls t = doneCalls s) ∧
      (s.cfg.actionTimeoutUs < s.world.clock + g0 + g1 - s.eng.act.startTime →
        t.eng.act = BusActionState.cleared ∧
        (s.eng.act.status = .asserted → s.eng.act.action = .reset → t.eng.lineReset = false) ∧
        (s.eng.act.status = .asserted → s.eng.act.action = .nmi → t.eng.lineNmi = false) ∧
        (s.eng.act.status = .asserted → s.eng.act.action = .irq → t.eng.lineIrq = false) ∧
        doneCalls t =
          allNotified s.eng.act.action s.eng.act.reason .actionTimedOut s.eng.numSockets ++
            doneCalls s)

/-- The action half of a tick (41_wait_service.md R170, 42_bus_actions.md R212 to R217), from the state
`u` in which its wait half leaves the machine: a Reset, NMI or IRQ whose duration is reached ends with
outcome Ok; an action older than `ACTION_TIMEOUT_US`, asserted or still pending, ends with
ActionTimedOut; then, with no wait asserted, the lowest request is taken and started in the same tick. A
Reset, NMI or IRQ is asserted at once; a BusRequest is resolved, with or without BUSACK. A tick with no
wait, or with WAIT seen together with BUSACK (R172), leaves `u` as it was, but for draws and the
diagnostic counters. That asserting RESET restarts the Z80 at once is the model's choice (log entry 6). -/
def Obligations.TickTakesAndEndsActions : Prop :=
  ∀ s u w : State, SocketsOk s → u = afterWait s → w = afterAdvance s →
    (s.eng.wait.asserted = false →
      s.world.present = none ∨ s.world.busackDraws.head? = some true →
      { u.eng with counters := s.eng.counters } = s.eng ∧
      u.eng.counters.noDiag = s.eng.counters.noDiag ∧ u.trk = s.trk ∧ u.bp = s.bp ∧
      u.cfg = s.cfg ∧ u.port = s.port ∧
      { u.world with
        draws := s.world.draws, busackDraws := s.world.busackDraws,
        diagDraws := s.world.diagDraws } = s.world) ∧
    (u.eng.act.status = .none → w = u) ∧
    (∀ p, u.eng.act.status = .asserted → u.eng.act.action = actionOfPulse p →
      ((now u).1 - u.eng.act.assertedAt < u.eng.act.durationUs →
        (now (now u).2).1 - u.eng.act.startTime ≤ u.cfg.actionTimeoutUs → w = (now (now u).2).2) ∧
      (∀ o,
        o = .ok ∧ u.eng.act.durationUs ≤ (now u).1 - u.eng.act.assertedAt ∨
        o = .actionTimedOut ∧ (now u).1 - u.eng.act.assertedAt < u.eng.act.durationUs ∧
          u.cfg.actionTimeoutUs < (now (now u).2).1 - u.eng.act.startTime →
        w.eng.act = BusActionState.cleared ∧
        w.eng.lineReset = (u.eng.lineReset && decide (p ≠ .reset)) ∧
        w.eng.lineNmi = (u.eng.lineNmi && decide (p ≠ .nmi)) ∧
        w.eng.lineIrq = (u.eng.lineIrq && decide (p ≠ .irq)) ∧
        w.eng.lineBusrq = u.eng.lineBusrq ∧ w.eng.mastered = u.eng.mastered ∧
        w.eng.counters = u.eng.counters ∧ w.eng.wait.asserted = u.eng.wait.asserted ∧
        w.world.mem = u.world.mem ∧ w.world.z80 = u.world.z80 ∧
        w.world.present = u.world.present ∧ waitCalls w = waitCalls u ∧
        doneCalls w = allNotified (actionOfPulse p) u.eng.act.reason o u.eng.numSockets ++ doneCalls u ∧
        w.trk = trackerAfterPulse p u.trk)) ∧
    (u.eng.act.status = .pending →
      ((now u).1 - u.eng.act.startTime ≤ u.cfg.actionTimeoutUs → w = (now u).2) ∧
      (u.cfg.actionTimeoutUs < (now u).1 - u.eng.act.startTime →
        w.eng.act = BusActionState.cleared ∧
        w.eng.lineReset = u.eng.lineReset ∧ w.eng.lineNmi = u.eng.lineNmi ∧
        w.eng.lineIrq = u.eng.lineIrq ∧ w.eng.lineBusrq = u.eng.lineBusrq ∧
        w.eng.mastered = u.eng.mastered ∧ w.eng.counters = u.eng.counters ∧
        w.eng.wait.asserted = u.eng.wait.asserted ∧
        w.world.mem = u.world.mem ∧ w.world.z80 = u.world.z80 ∧
        w.world.present = u.world.present ∧ waitCalls w = waitCalls u ∧
        doneCalls w =
          allNotified u.eng.act.action u.eng.act.reason .actionTimedOut u.eng.numSockets ++
            doneCalls u ∧
        w.trk = trackerAfterTimeout u.eng.act.action u.eng.act.reason u.trk)) ∧
    (w.eng.wait.asserted = true ∨ w.eng.act.status = .asserted ∨
      w.eng.act.status = .none ∧ (w.eng.mastered = true ∨ NoActions w) →
      exec .serviceTick s = .next (w.answer okNone)) ∧
    (∀ t', w.eng.wait.asserted = false → w.eng.act.status = .pending →
      exec .startPending w = .next t' → exec .serviceTick s = .next (t'.answer okNone)) ∧
    (w.eng.wait.asserted = false → w.eng.act.status = .none → w.eng.mastered = false →
      ∀ h reason, h < w.eng.numSockets →
      (∀ j, j < h → (sockAt w j).actionRequest = none ∧ (sockAt w j).busMasterRequest = none) →
      (∀ p, (sockAt w h).actionRequest = some (p, reason) →
        ∃ t, exec .serviceTick s = .next t ∧
          t.eng = { w.eng with
            sock := w.eng.sock.set h { sockAt w h with actionRequest := none }
            lineReset := w.eng.lineReset || decide (p = .reset)
            lineNmi := w.eng.lineNmi || decide (p = .nmi)
            lineIrq := w.eng.lineIrq || decide (p = .irq)
            act := { status := .asserted, action := actionOfPulse p, socket := h, reason := reason
                     startTime := (now w).1, assertedAt := t.world.clock
                     durationUs :=
                       match p with
                       | .reset => (sockAt w h).durResetUs
                       | .nmi => (sockAt w h).durNmiUs
                       | .irq => (sockAt w h).durIrqUs } } ∧
          (now w).1 ≤ t.world.clock ∧ t = ((w.withEng t.eng).withWorld t.world).answer okNone ∧
          t.world.mem = w.world.mem ∧ t.world.calls = w.world.calls ∧
          (p ≠ .reset → t.world = (now (now w).2).2.world) ∧
          (p = .reset →
            t.world.z80.regs.pc = 0 ∧ t.world.z80.regs.im = .im0 ∧ t.world.z80.regs.iff1 = false ∧
            t.world.z80.regs.iff2 = false ∧ t.world.z80.rx = [] ∧ t.world.z80.wr = 0)) ∧
      ((sockAt w h).actionRequest = none → (sockAt w h).busMasterRequest = some reason →
        ∃ t v, exec .serviceTick s = .next t ∧ t.port.result = okNone ∧
          exec .checkPending w = .next v ∧
          t.eng.act = BusActionState.cleared ∧ t.eng.mastered = false ∧ t.eng.lineBusrq = false ∧
          t.eng.numSockets = w.eng.numSockets ∧ waitCalls t = waitCalls w ∧
          ((awaitBusack v).1 = true →
            t.eng.busDriven = false ∧ t.eng.skipRefreshPrimed = true ∧
            doneCalls t = allNotified .busRequest reason .ok w.eng.numSockets ++ doneCalls w ∧
            t.trk =
              (if reason = mirrorReason then { w.trk with mirror := w.world.mem, mirrorValid := true }
               else w.trk) ∧
            ∃ m, LendsBus (awaitBusack v).2 m ∧ MasteredThroughout reason m ∧
              t = (releaseMastership (notifyAll .busRequest reason .ok m)).answer okNone) ∧
          ((awaitBusack v).1 = false →
            t.world.mem = w.world.mem ∧ t.eng.skipRefreshPrimed = w.eng.skipRefreshPrimed ∧
            doneCalls t =
              allNotified .busRequest reason .busRequestFailed w.eng.numSockets ++ doneCalls w ∧
            t.trk =
              if reason = mirrorReason then { w.trk with mirrorValid := false } else w.trk)))

/-! ### Mastership and block transfers -/

/-- The poll loop of a bus request: without BUSACK it ends only when `BUSACK_TIMEOUT_US` has passed
since the time `t0` that is read once BUSRQ is asserted; it never sees BUSACK while the Z80 is held in a
wait; and it sees BUSACK at the poll that answers in time (42_bus_actions.md R216,
70_reset_and_hazards.md R463, R466). -/
def Obligations.PollLoopEndsByTime : Prop :=
  ∀ s : State,
    ((awaitBusack s).1 = false →
      ∀ t0, t0 = (now (assertLine .busRequest s)).1 →
        s.world.clock ≤ t0 ∧ t0 + s.cfg.busackTimeoutUs ≤ (awaitBusack s).2.world.clock) ∧
    (inWait s = true → (awaitBusack s).1 = false) ∧
    (∀ (j g0 : Nat) (gs ts : List Nat) (bs : List Bool), inWait s = false →
      s.world.busackDraws = List.replicate j false ++ true :: bs →
      s.world.timeDraws = g0 :: gs ++ ts → gs.length = j →
      (j = 0 ∨ gs.sum < s.cfg.busackTimeoutUs) →
      (awaitBusack s).1 = true ∧
      (awaitBusack s).2 = (s.withEng { s.eng with lineBusrq := true }).withWorld
        { s.world with
          clock := s.world.clock + g0 + gs.sum, timeDraws := ts, busackDraws := bs }) ∧
    ((awaitBusack s).2.eng = { s.eng with lineBusrq := true } ∧
      (awaitBusack s).2.trk = s.trk ∧ (awaitBusack s).2.bp = s.bp ∧
      (awaitBusack s).2.cfg = s.cfg ∧ (awaitBusack s).2.port = s.port ∧
      SameWorldButTime s (awaitBusack s).2)

/-- REQUEST_AND_TAKE of a free bus: with BUSACK the engine masters and drives it and no cycle waits any
more; without, BUSRQ is deasserted and the result is NoBusAck (43_mastership_block_io.md R250,
R251). -/
def Obligations.RequestAndTakeEffect : Prop :=
  ∀ s : State, s.eng.mastered = false → s.eng.act.status = .none →
    ((awaitBusack s).1 = true →
      ∃ t, exec .requestAndTake s = .next t ∧
        t = ((awaitBusack s).2.withEng t.eng).answer okNone ∧
        t.eng.mastered = true ∧ t.eng.lineBusrq = true ∧ t.eng.busDriven = true ∧
        t.eng.waitGenMem = false ∧ t.eng.waitGenIo = false ∧
        { t.eng with
          mastered := s.eng.mastered, lineBusrq := s.eng.lineBusrq, busDriven := s.eng.busDriven
          waitGenMem := s.eng.waitGenMem, waitGenIo := s.eng.waitGenIo
          wait := { t.eng.wait with hold := s.eng.wait.hold } } = s.eng) ∧
    ((awaitBusack s).1 = false →
      exec .requestAndTake s =
        .next (((awaitBusack s).2.withEng { s.eng with lineBusrq := false }).answer .noBusAck))

/-- RELEASE of a mastered bus gives it back: BUSRQ deasserted, the lines no longer driven, the
skip-refresh latch primed and wait generation as the sockets ask; of a bus that is not mastered it is
refused (43_mastership_block_io.md R252, R253). -/
def Obligations.ReleaseEffect : Prop :=
  ∀ s : State,
    (s.eng.mastered = true →
      ∃ t, exec .release s = .next t ∧ OnlyEng okNone s t ∧
        t.eng.mastered = false ∧ t.eng.lineBusrq = false ∧ t.eng.busDriven = false ∧
        t.eng.skipRefreshPrimed = true ∧ AggregatesOk t ∧
        { t.eng with
          mastered := s.eng.mastered, lineBusrq := s.eng.lineBusrq, busDriven := s.eng.busDriven
          skipRefreshPrimed := s.eng.skipRefreshPrimed
          waitGenMem := s.eng.waitGenMem, waitGenIo := s.eng.waitGenIo
          wait := { t.eng.wait with hold := s.eng.wait.hold } } = s.eng) ∧
    (s.eng.mastered = false → exec .release s = .next (s.answer invalid))

/-- BLOCK_READ under the engine's mastership returns the bytes of memory from the address on, wrapping at
the end, or one draw for each I/O port; a read of no byte is Ok, whoever masters the bus and whatever
`auto`; nothing else changes (43_mastership_block_io.md R254, R255; that a read of no byte is Ok without
mastership follows R255's order over R415's list, log entry 31). -/
def Obligations.BlockReadReturnsBytes : Prop :=
  ∀ (s : State) (auto : Bool) (addr : Addr), s.port.payload.len ≤ 65536 →
    (s.port.payload.len = 0 → ∀ io,
      exec (.blockRead auto io addr) s = .next (s.answer (.ok (.buffer [])))) ∧
    (s.eng.mastered = true →
      exec (.blockRead auto false addr) s =
        .next (s.answer (.ok (.buffer ((List.range s.port.payload.len).map
          (fun k => memRead (addr + BitVec.ofNat 16 k) s)))))) ∧
    (s.eng.mastered = true → ∀ (bs rest : List Byte), bs.length = s.port.payload.len →
      s.world.byteDraws = bs ++ rest →
      exec (.blockRead auto true addr) s =
        .next ((s.withWorld { s.world with byteDraws := rest }).answer (.ok (.buffer bs))))

/-- BLOCK_WRITE under the engine's mastership writes its bytes from the address on, wrapping at the end,
and no other byte of memory; to I/O it makes one write for each byte; a write of no byte is Ok, whoever
masters the bus, and changes nothing (43_mastership_block_io.md R254, R256, 20_memory.md R88; the last
is the order of R256, log entry 31). -/
def Obligations.BlockWriteStoresBytes : Prop :=
  ∀ (s : State) (auto : Bool) (addr : Addr), MemoryOk s → s.port.payload.buf.length ≤ 65536 →
    (s.port.payload.buf = [] → ∀ io, exec (.blockWrite auto io addr) s = .next (s.answer okNone)) ∧
    (s.eng.mastered = true →
      (∃ t, exec (.blockWrite auto false addr) s = .next t ∧
        t = (s.withWorld { s.world with mem := t.world.mem }).answer okNone ∧
        (∀ (k : Nat) (b : Byte), s.port.payload.buf[k]? = some b →
          memRead (addr + BitVec.ofNat 16 k) t = b) ∧
        (∀ a : Addr, (∀ k, k < s.port.payload.buf.length → a ≠ addr + BitVec.ofNat 16 k) →
          memRead a t = memRead a s)) ∧
      (∃ t, exec (.blockWrite auto true addr) s = .next t ∧
        t = (s.withWorld { s.world with
          ioWrites :=
            (s.port.payload.buf.zipIdx.map (fun (b, k) => (addr + BitVec.ofNat 16 k, b))).reverse ++
              s.world.ioWrites }).answer okNone))

/-- A block transfer that takes the bus itself, of memory or of I/O: with BUSACK it transfers and gives the
bus back, primed; without, the result is NoBusAck and nothing is transferred
(43_mastership_block_io.md R250, R253, R255, R256, 20_memory.md R88). -/
def Obligations.AutoTransferGivesBusBack : Prop :=
  ∀ (s : State) (addr : Addr), MemoryOk s → s.eng.mastered = false → s.eng.act.status = .none →
    (0 < s.port.payload.len → s.port.payload.len ≤ 65536 → ∀ io,
      ∃ t, exec (.blockRead true io addr) s = .next t ∧
        t.eng.mastered = false ∧ t.eng.lineBusrq = false ∧ t.world.mem = s.world.mem ∧
        t.world.ioWrites = s.world.ioWrites ∧ t.trk = s.trk ∧
        ((awaitBusack s).1 = true →
          t.eng.skipRefreshPrimed = true ∧ t.eng.busDriven = false ∧ AggregatesOk t ∧
          (io = false → t.port.result = .ok (.buffer ((List.range s.port.payload.len).map
            (fun k => memRead (addr + BitVec.ofNat 16 k) s)))) ∧
          (∀ bs rest : List Byte, io = true → bs.length = s.port.payload.len →
            s.world.byteDraws = bs ++ rest →
            t.port.result = .ok (.buffer bs) ∧ t.world.byteDraws = rest)) ∧
        ((awaitBusack s).1 = false →
          t.port.result = .noBusAck ∧ t.world.byteDraws = s.world.byteDraws)) ∧
    (0 < s.port.payload.buf.length → s.port.payload.buf.length ≤ 65536 → ∀ io,
      ∃ t, exec (.blockWrite true io addr) s = .next t ∧
        t.eng.mastered = false ∧ t.eng.lineBusrq = false ∧ t.trk = s.trk ∧
        ((awaitBusack s).1 = true →
          t.port.result = okNone ∧ t.eng.skipRefreshPrimed = true ∧ t.eng.busDriven = false ∧
          AggregatesOk t ∧
          (io = false →
            (∀ (k : Nat) (b : Byte), s.port.payload.buf[k]? = some b →
              memRead (addr + BitVec.ofNat 16 k) t = b) ∧
            (∀ a : Addr, (∀ k, k < s.port.payload.buf.length → a ≠ addr + BitVec.ofNat 16 k) →
              memRead a t = memRead a s) ∧
            t.world.ioWrites = s.world.ioWrites) ∧
          (io = true →
            t.world.mem = s.world.mem ∧
            t.world.ioWrites =
              (s.port.payload.buf.zipIdx.map (fun (b, k) => (addr + BitVec.ofNat 16 k, b))).reverse ++
                s.world.ioWrites)) ∧
        ((awaitBusack s).1 = false →
          t.port.result = .noBusAck ∧ t.world.mem = s.world.mem ∧
          t.world.ioWrites = s.world.ioWrites))

/-- A block write followed by a block read of the same addresses returns what was written, when both calls
return Ok and memory was not written between (43_mastership_block_io.md R257). -/
def Obligations.BlockRoundTrip : Prop :=
  ∀ (s t u v : State) (auto auto' : Bool) (addr : Addr) (bs : List Byte), MemoryOk s →
    exec (.blockWrite auto false addr) s = .next t → t.port.result = okNone →
    u.world.mem = t.world.mem → u.port.payload.len = s.port.payload.buf.length →
    exec (.blockRead auto' false addr) u = .next v → v.port.result = .ok (.buffer bs) →
    bs = s.port.payload.buf

/-! ### Breakpoints -/

/-- BP_SET writes and enables one entry; BP_CLEAR disables one and keeps its pc and message; every other
entry, and all else, is unchanged; an index outside the table is refused (44_boundary_breakpoints.md
R286, R287). -/
def Obligations.BreakpointCommandsEffect : Prop :=
  ∀ (s : State) (t : BpTable) (idx : Nat), TableOk s →
    (idx < bpSize t s.cfg →
      (∀ pc, ∃ u, exec (.bpSet t idx pc) s = .next u ∧ u = (s.withBp u.bp).answer okNone ∧
        u.bp.globalEnable = s.bp.globalEnable ∧
        (bpTable t u.bp)[idx]? =
          some { enabled := true, pc := pc, hitMessage := s.port.payload.msg } ∧
        (∀ (t' : BpTable) (j : Nat), (t', j) ≠ (t, idx) →
          (bpTable t' u.bp)[j]? = (bpTable t' s.bp)[j]?)) ∧
      (∃ u, exec (.bpClear t idx) s = .next u ∧ u = (s.withBp u.bp).answer okNone ∧
        u.bp.globalEnable = s.bp.globalEnable ∧
        (∃ e, (bpTable t s.bp)[idx]? = some e ∧
          (bpTable t u.bp)[idx]? = some { e with enabled := false }) ∧
        (∀ (t' : BpTable) (j : Nat), (t', j) ≠ (t, idx) →
          (bpTable t' u.bp)[j]? = (bpTable t' s.bp)[j]?))) ∧
    (bpSize t s.cfg ≤ idx →
      (∀ pc, exec (.bpSet t idx pc) s = .next (s.answer invalid)) ∧
      exec (.bpClear t idx) s = .next (s.answer invalid))

/-- BP_GLOBAL_ENABLE writes the flag and nothing else; IS_PREFIX answers whether the byte is one of the
four prefixes and writes nothing (44_boundary_breakpoints.md R280, R288). -/
def Obligations.GlobalEnableAndPrefixResults : Prop :=
  ∀ s : State,
    (∀ e : Bool, exec (.bpGlobalEnable e) s =
      .next ((s.withBp { s.bp with globalEnable := e }).answer okNone)) ∧
    (∀ b : Byte, exec (.isPrefix b) s =
      .next (s.answer (.ok (.bool (decide (b ∈ [0xCB#8, 0xDD#8, 0xED#8, 0xFD#8]))))))

/-- CHECK_FOR_BREAK reports the lowest enabled entry with this pc, the fast table first and the slow one
only when globally enabled, on an M1 read while the bus is not mastered, and writes nothing
(44_boundary_breakpoints.md R289). -/
def Obligations.CheckForBreakResult : Prop :=
  ∀ (s : State) (f : CtrlFlags) (addr : Addr),
    ∃ r, exec (.checkForBreak f addr) s = .next (s.answer (.ok (.hit r))) ∧
      ∀ (t : BpTable) (i : Nat) (msg : String),
        r = some (t, i, msg) ↔
          flagM1 f = true ∧ flagRd f = true ∧ s.eng.mastered = false ∧
          (bpTable t s.bp)[i]? = some { enabled := true, pc := addr, hitMessage := msg } ∧
          (∀ j, j < i → ∀ m, (bpTable t s.bp)[j]? ≠
            some { enabled := true, pc := addr, hitMessage := m }) ∧
          (t = .slow → s.bp.globalEnable = true ∧
            ∀ e ∈ s.bp.fast, ¬ (e.enabled = true ∧ e.pc = addr))

/-! ### The tracker's commands -/

/-- TRK_ENABLE 1: a deferred disable is cancelled; a tracker that is on stays as it is but for its history;
one that is off is switched on, asks for a GET and waits on memory cycles (45_tracker.md R310); each of
the three sets both entries of the history (44_boundary_breakpoints.md R284). That the first two do
follows R284's words "at every TRK_ENABLE with e = 1", where R310's pseudocode returns before that write
(log entry 37). -/
def Obligations.TrkEnableEffect : Prop :=
  ∀ s : State, TableOk s →
    (s.trk.disablePending = true →
      exec (.trkEnable true) s =
        .next ((s.withTrk { s.trk with
          disablePending := false, hist0 := true, hist1 := true }).answer okNone)) ∧
    (s.trk.disablePending = false → s.trk.enabled = true →
      exec (.trkEnable true) s =
        .next ((s.withTrk { s.trk with hist0 := true, hist1 := true }).answer okNone)) ∧
    (s.trk.disablePending = false → s.trk.enabled = false →
      ∃ t, exec (.trkEnable true) s = .next t ∧
        t = ((s.withTrk { s.trk with
          enabled := true, state := .idle, hist0 := true, hist1 := true
          getRequested := true }).withEng t.eng).answer okNone ∧
        t.eng.numSockets = s.eng.numSockets ∧
        SocketBecomes 0
          { sockAt s 0 with enabled := true, waitOnMemory := true, waitOnIo := false } s t)

/-- TRK_ENABLE 0: a tracker that is off stays off; mid-injection the disable is deferred; otherwise the
tracker becomes Idle, drops its hold, its requests and its page-out, and its socket waits on nothing,
while its snapshot and mirror are kept (45_tracker.md R310, R317). -/
def Obligations.TrkDisableEffect : Prop :=
  ∀ s : State, SocketsOk s →
    (s.trk.enabled = false → exec (.trkEnable false) s = .next (s.answer okNone)) ∧
    (s.trk.enabled = true → s.trk.state = .injecting →
      exec (.trkEnable false) s =
        .next ((s.withTrk { s.trk with disablePending := true }).answer okNone)) ∧
    (s.trk.enabled = true → s.trk.state ≠ .injecting →
      ∃ t, exec (.trkEnable false) s = .next t ∧
        t = ((s.withTrk { s.trk with
          held := false, holdArmed := false, stepInto := false, haltAfter := false
          pageOut := false, seqKind := .none, seq := [], cursor := 0, wrOrdinal := 0
          getRequested := false, setRequest := none, disablePending := false, enabled := false
          state := .idle }).withEng t.eng).answer okNone ∧
        t.eng.numSockets = s.eng.numSockets ∧
        SocketBecomes 0
          { sockAt s 0 with
            enabled := false, waitOnMemory := false, waitOnIo := false
            hold := (sockAt s 0).hold && !s.trk.held } s t)

/-- TRK_REQUEST_GET, TRK_START_SET and TRK_HALT of a tracker that is on record what is asked for and change
nothing else; TRK_STEP and TRK_RUN set and leave step mode and drop the tracker's hold, if it has one.
Of a tracker that is off each is refused, and so is a SET of an interrupt mode other than 0, 1 and 2
(45_tracker.md R311 to R315). -/
def Obligations.TrkControlCommandsEffect : Prop :=
  ∀ s : State, SocketsOk s →
    (s.trk.enabled = true →
      exec .trkRequestGet s =
        .next ((s.withTrk { s.trk with getRequested := true }).answer okNone) ∧
      (imSettable s.port.payload.regs.im →
        exec .trkStartSet s =
          .next ((s.withTrk { s.trk with setRequest := some s.port.payload.regs }).answer okNone)) ∧
      exec .trkHalt s = .next ((s.withTrk { s.trk with stepInto := true }).answer okNone) ∧
      (∃ t, exec .trkStep s = .next t ∧
        t = ((s.withTrk { s.trk with stepInto := true, held := false }).withEng t.eng).answer okNone ∧
        t.eng.numSockets = s.eng.numSockets ∧
        SocketBecomes 0 { sockAt s 0 with hold := (sockAt s 0).hold && !s.trk.held } s t) ∧
      (∃ t, exec .trkRun s = .next t ∧
        t = ((s.withTrk { s.trk with
          stepInto := false, holdArmed := false, held := false }).withEng t.eng).answer okNone ∧
        t.eng.numSockets = s.eng.numSockets ∧
        SocketBecomes 0 { sockAt s 0 with hold := (sockAt s 0).hold && !s.trk.held } s t)) ∧
    (s.trk.enabled = false →
      exec .trkRequestGet s = .next (s.answer invalid) ∧
      exec .trkStartSet s = .next (s.answer invalid) ∧
      exec .trkStep s = .next (s.answer invalid) ∧
      exec .trkRun s = .next (s.answer invalid) ∧
      exec .trkHalt s = .next (s.answer invalid)) ∧
    (¬ imSettable s.port.payload.regs.im → exec .trkStartSet s = .next (s.answer invalid))

/-! ### The tracker's callbacks -/

/-- The tracker's callback at a fetch outside an injection, and on cycles it ignores (45_tracker.md R318,
R320, R321, 44_boundary_breakpoints.md R282, R283). The word runs the callback that a tick calls
(`TickServicesCycle`; log entry 20). -/
def Obligations.OnWaitCycleAtFetch : Prop :=
  ∀ (s : State) (addr : Addr) (data : Byte) (f : CtrlFlags),
    s.port.issuer = .engine → s.port.payload.addr = addr → s.port.payload.data = data →
    s.port.payload.flags = f → s.trk.state ≠ .injecting → TableOk s →
    (exec .onWaitCycle s = .next ((trackerOnWaitCycle addr data f s).2.answer
      (.ok (.decision (trackerOnWaitCycle addr data f s).1)))) ∧
    (s.trk.enabled = false ∨ isFetch f = false →
      exec .onWaitCycle s = .next (s.answer (.ok (.decision .notDecoded)))) ∧
    (s.trk.enabled = true → isFetch f = true →
      ∀ (brk : Option (BpTable × Nat × Addr)) (msg : String),
      (match checkForBreak addr f s with
        | some (t, i, m) => brk = some (t, i, addr) ∧ msg = m
        | none => brk = s.trk.lastBreak ∧ msg = s.trk.breakMessage) →
      (s.trk.hist0 = true →
        exec .onWaitCycle s = .next ((s.withTrk { s.trk with
          lastBreak := brk, breakMessage := msg, hist1 := true
          hist0 := prefixByte data }).answer (.ok (.decision .notDecoded)))) ∧
      (s.trk.hist0 = false → s.trk.holdArmed = true →
        ∃ t, exec .onWaitCycle s = .next t ∧
          t = ((s.withTrk { s.trk with
            lastBreak := brk, breakMessage := msg, hist1 := false, hist0 := prefixByte data
            holdArmed := false, held := true, state := .awaiting }).withEng t.eng).answer
              (.ok (.decision .notDecoded)) ∧
          t.eng.wait.hold = true ∧ t.eng.numSockets = s.eng.numSockets ∧
          SocketBecomes 0 { sockAt s 0 with hold := true } s t) ∧
      (∀ r, s.trk.hist0 = false → s.trk.holdArmed = false → s.trk.setRequest = some r →
        exec .onWaitCycle s = .next ((s.withTrk { s.trk with
          lastBreak := brk, breakMessage := msg, hist1 := false, hist0 := false
          seqKind := .set, setActive := r, setRequest := none, seq := setTemplate r
          cursor := 1, wrOrdinal := 0, cap := List.replicate 23 (0, 0), boundaryPc := addr
          haltAfter := s.trk.stepInto || (checkForBreak addr f s).isSome, disturbed := false
          pageOut := true, state := .injecting }).answer (.ok (.decision (.injectOpcode 0x01))))) ∧
      (s.trk.hist0 = false → s.trk.holdArmed = false → s.trk.setRequest = none →
        s.trk.getRequested = true ∨ s.trk.stepInto = true ∨ (checkForBreak addr f s).isSome = true →
        exec .onWaitCycle s = .next ((s.withTrk { s.trk with
          lastBreak := brk, breakMessage := msg, hist1 := false, hist0 := false
          seqKind := .get, getRequested := false, seq := getTemplate
          cursor := 1, wrOrdinal := 0, cap := List.replicate 23 (0, 0), boundaryPc := addr
          haltAfter := s.trk.stepInto || (checkForBreak addr f s).isSome, disturbed := false
          pageOut := true, state := .injecting }).answer (.ok (.decision (.injectOpcode 0xF5))))) ∧
      (s.trk.hist0 = false → s.trk.holdArmed = false → s.trk.setRequest = none →
        s.trk.getRequested = false → s.trk.stepInto = false → checkForBreak addr f s = none →
        exec .onWaitCycle s = .next ((s.withTrk { s.trk with
          hist1 := false, hist0 := prefixByte data
          state := .awaiting }).answer (.ok (.decision .notDecoded)))))

/-- The tracker's callback during an injection: a memory read gets the next byte of the sequence, the five
bytes of a GET that R364 computes from its captures among them; a write is counted, captured in a GET,
and the 23rd asks for the mirror; the last byte ends the injection, whose snapshot is valid when it was
undisturbed with 23 writes for a GET and none for a SET, and a valid SET drops a GET that is asked for;
every other cycle is ignored (46_injection.md R363, R364, R380, R381, 45_tracker.md R317, R324). The
word runs the callback that a tick calls (`TickServicesCycle`; log entry 20). -/
def Obligations.OnWaitCycleInjects : Prop :=
  ∀ (s : State) (addr : Addr) (data : Byte) (f : CtrlFlags),
    s.port.issuer = .engine → s.port.payload.addr = addr → s.port.payload.data = data →
    s.port.payload.flags = f → s.trk.state = .injecting → TrackerOk s → SocketsOk s →
    (exec .onWaitCycle s = .next ((trackerOnWaitCycle addr data f s).2.answer
      (.ok (.decision (trackerOnWaitCycle addr data f s).1)))) ∧
    (isMemRead f = true → s.trk.cursor + 1 < s.trk.seq.length →
      ∃ b, SuppliedByte s.trk b ∧
        exec .onWaitCycle s = .next ((s.withTrk { s.trk with
          cursor := s.trk.cursor + 1
          hist1 := if flagM1 f then s.trk.hist0 else s.trk.hist1
          hist0 := if flagM1 f then prefixByte b else s.trk.hist0 }).answer
            (.ok (.decision (.injectOpcode b))))) ∧
    (isMemRead f = true → s.trk.cursor + 1 = s.trk.seq.length → s.trk.disablePending = false →
      ∃ b, SuppliedByte s.trk b ∧
        exec .onWaitCycle s =
          .next ((s.withTrk (trackerAfterInjection f b s.trk)).answer
            (.ok (.decision (.injectOpcode b))))) ∧
    (isMemRead f = true → s.trk.cursor + 1 = s.trk.seq.length → s.trk.disablePending = true →
      ∃ t b, SuppliedByte s.trk b ∧ exec .onWaitCycle s = .next t ∧
        t = ((s.withTrk (trackerOff (trackerAfterInjection f b s.trk))).withEng t.eng).answer
          (.ok (.decision (.injectOpcode b))) ∧
        t.eng.numSockets = s.eng.numSockets ∧
        SocketBecomes 0
          { sockAt s 0 with
            enabled := false, waitOnMemory := false, waitOnIo := false
            hold := (sockAt s 0).hold && !s.trk.held } s t) ∧
    (isMemWrite f = true →
      ∃ t, exec .onWaitCycle s = .next t ∧
        t = ((s.withTrk { s.trk with
          wrOrdinal := s.trk.wrOrdinal + 1
          cap :=
            if s.trk.seqKind = .get ∧ s.trk.wrOrdinal < 23 then s.trk.cap.set s.trk.wrOrdinal (addr, data)
            else s.trk.cap }).withEng t.eng).answer (.ok (.decision .notDecoded)) ∧
        (s.trk.seqKind = .get → s.trk.wrOrdinal = 22 → (sockAt s 0).busMasterRequest = none →
          OnlySocket 0 { sockAt s 0 with busMasterRequest := some 0x01 } s t) ∧
        (s.trk.seqKind = .set ∨ s.trk.wrOrdinal ≠ 22 ∨ (sockAt s 0).busMasterRequest ≠ none →
          t.eng = s.eng)) ∧
    (isMemRead f = false → isMemWrite f = false →
      exec .onWaitCycle s = .next (s.answer (.ok (.decision .notDecoded))))

/-- The tracker's completion callback: a Reset ends an injection, drops the hold and the snapshot,
resets the history and carries out a disable that is pending; an NMI or IRQ disturbs an injection; its
own BusRequest copies memory into the mirror, or marks it invalid when it failed or the block read is
refused for want of mastership; anything else is ignored (45_tracker.md R317, R328, R330). The word runs
the callback that the arbiter calls (`AdvancePendingEnds`, `BusRequestGranted`; log entry 20). -/
def Obligations.OnBusActionCompleteEffect : Prop :=
  ∀ (s : State) (action : BusAction) (reason : Byte) (outcome : ActOutcome),
    s.port.issuer = .engine → s.port.payload.action = action → s.port.payload.reason = reason →
    s.port.payload.outcome = outcome → SocketsOk s → TrackerOk s →
    (action = .reset →
      ∃ (t : State) (off : Bool), exec .onBusActionComplete s = .next t ∧
        off = (decide (s.trk.state = .injecting) && s.trk.disablePending) ∧
        t = ((s.withTrk (trackerAfterReset s.trk)).withEng t.eng).answer okNone ∧
        t.trk.hist0 = true ∧ t.trk.hist1 = true ∧ t.trk.regsValid = false ∧
        t.trk.holdArmed = false ∧ t.trk.held = false ∧ t.trk.pageOut = false ∧
        t.trk.seqKind = .none ∧ t.trk.seq = [] ∧ t.trk.cursor = 0 ∧
        t.trk.state =
          (if s.trk.state = .injecting then
            (if s.trk.disablePending then .idle else .awaiting)
           else s.trk.state) ∧
        t.eng.numSockets = s.eng.numSockets ∧ SocketsOk t ∧
        SocketBecomes 0
          { sockAt s 0 with
            enabled := (sockAt s 0).enabled && !off
            waitOnMemory := (sockAt s 0).waitOnMemory && !off
            waitOnIo := (sockAt s 0).waitOnIo && !off
            hold := (sockAt s 0).hold && !s.trk.held } s t ∧
        t.trk.regs = s.trk.regs ∧ t.trk.mirror = s.trk.mirror) ∧
    (action = .nmi ∨ action = .irq →
      exec .onBusActionComplete s = .next ((s.withTrk { s.trk with
        disturbed := s.trk.disturbed || decide (s.trk.state = .injecting) }).answer okNone)) ∧
    (action = .busRequest → reason = 0x01 → outcome = .ok → s.eng.mastered = true →
      exec .onBusActionComplete s = .next ((s.withTrk { s.trk with
        mirror := s.world.mem, mirrorValid := true }).answer okNone)) ∧
    (action = .busRequest → reason = 0x01 → outcome ≠ .ok ∨ s.eng.mastered = false →
      exec .onBusActionComplete s =
        .next ((s.withTrk { s.trk with mirrorValid := false }).answer okNone)) ∧
    (action = .none ∨ action = .busRequest ∧ reason ≠ 0x01 →
      exec .onBusActionComplete s = .next (s.answer okNone))

/-! ### The Z80 -/

/-- The Z80 instructions that touch registers only (46_injection.md R361): loads of immediates, the two
exchanges, the loads of I and R, the interrupt modes and enables, and the jumps. Each changes the
registers its row names, PC and R, and nothing else. `ld a,r` reads R after its own two increments;
`ld a,i` copies IFF2 to P/V; the flags of these two that the spec does not state are free, and the
statement holds for every value of them (log entry 17). That `ei` sets IFF1 and IFF2 at once, with a
shadow over the instruction after it that no interrupt passes, so that `ld a,i` right after an `ei`
reads IFF2 set, is the model's reading (log entry 18), and that one step runs the whole instruction of
a free Z80 is its choice (log entry 29). -/
def Obligations.ZRegisterInstructions : Prop :=
  ∀ (s : State) (z : Z80Regs), z80Free s = true → s.world.z80.regs = z →
    (∀ n, exec (.ldAN n) s =
      .next (afterZ80 s { fetched 2 1 z with af := pair n (lo z.af) } s.world.mem)) ∧
    (∀ nn, exec (.ldBcNn nn) s = .next (afterZ80 s { fetched 3 1 z with bc := nn } s.world.mem)) ∧
    (∀ nn, exec (.ldDeNn nn) s = .next (afterZ80 s { fetched 3 1 z with de := nn } s.world.mem)) ∧
    (∀ nn, exec (.ldHlNn nn) s = .next (afterZ80 s { fetched 3 1 z with hl := nn } s.world.mem)) ∧
    (∀ nn, exec (.ldSpNn nn) s = .next (afterZ80 s { fetched 3 1 z with sp := nn } s.world.mem)) ∧
    (∀ nn, exec (.ldIxNn nn) s = .next (afterZ80 s { fetched 4 2 z with ix := nn } s.world.mem)) ∧
    (∀ nn, exec (.ldIyNn nn) s = .next (afterZ80 s { fetched 4 2 z with iy := nn } s.world.mem)) ∧
    exec .exx s = .next (afterZ80 s { fetched 1 1 z with
      bc := z.bcAlt, de := z.deAlt, hl := z.hlAlt
      bcAlt := z.bc, deAlt := z.de, hlAlt := z.hl } s.world.mem) ∧
    exec .exAfAf s =
      .next (afterZ80 s { fetched 1 1 z with af := z.afAlt, afAlt := z.af } s.world.mem) ∧
    exec .im0 s = .next (afterZ80 s { fetched 2 2 z with im := .im0 } s.world.mem) ∧
    exec .im1 s = .next (afterZ80 s { fetched 2 2 z with im := .im1 } s.world.mem) ∧
    exec .im2 s = .next (afterZ80 s { fetched 2 2 z with im := .im2 } s.world.mem) ∧
    exec .ei s = .next (afterZ80 s { fetched 1 1 z with
      iff1 := true, iff2 := true, eiShadow := true } s.world.mem) ∧
    exec .di s =
      .next (afterZ80 s { fetched 1 1 z with iff1 := false, iff2 := false } s.world.mem) ∧
    (∀ d : Byte, exec (.jrD d) s =
      .next (afterZ80 s { fetched 2 1 z with
        pc := z.pc + 2 + BitVec.ofInt 16 d.toInt } s.world.mem)) ∧
    (∀ nn, exec (.jpNn nn) s = .next (afterZ80 s { fetched 3 1 z with pc := nn } s.world.mem)) ∧
    (∃ flags, exec .ldAR s =
      .next (afterZ80 s { fetched 2 2 z with af := pair (r7add z.r 2) flags } s.world.mem)) ∧
    (∃ flags, flags.getLsbD 2 = z.iff2 ∧ exec .ldAI s =
      .next (afterZ80 s { fetched 2 2 z with af := pair z.i flags } s.world.mem)) ∧
    exec .ldRA s = .next (afterZ80 s { fetched 2 2 z with r := hi z.af } s.world.mem) ∧
    exec .ldIA s = .next (afterZ80 s { fetched 2 2 z with i := hi z.af } s.world.mem)

/-- The Z80 stores (46_injection.md R361, 20_memory.md R82): the low byte at nn, the high byte at nn+1, and
no other byte of memory; the registers but for PC and R unchanged. One step runs the whole instruction
of a free Z80 (log entry 29). -/
def Obligations.ZStores : Prop :=
  ∀ (s : State) (z : Z80Regs), z80Free s = true → s.world.z80.regs = z → MemoryOk s →
    ∀ nn : Addr,
      (∃ m, exec (.ldMemA nn) s = .next (afterZ80 s (fetched 3 1 z) m) ∧
        ∀ a, Memory.read m a = if a = nn then hi z.af else memRead a s) ∧
      (∃ m, exec (.ldMemHl nn) s = .next (afterZ80 s (fetched 3 1 z) m) ∧
        ∀ a, Memory.read m a =
          if a = nn then lo z.hl else if a = nn + 1 then hi z.hl else memRead a s) ∧
      (∃ m, exec (.ldMemDe nn) s = .next (afterZ80 s (fetched 4 2 z) m) ∧
        ∀ a, Memory.read m a =
          if a = nn then lo z.de else if a = nn + 1 then hi z.de else memRead a s) ∧
      (∃ m, exec (.ldMemBc nn) s = .next (afterZ80 s (fetched 4 2 z) m) ∧
        ∀ a, Memory.read m a =
          if a = nn then lo z.bc else if a = nn + 1 then hi z.bc else memRead a s)

/-- The Z80's stack instructions (46_injection.md R361, 20_memory.md R82): a push stores the high byte at
SP-1 and the low byte at SP-2; `pop af` reads F from SP and A from SP+1 and stores nothing. One step
runs the whole instruction of a free Z80 (log entry 29). -/
def Obligations.ZStackInstructions : Prop :=
  ∀ (s : State) (z : Z80Regs), z80Free s = true → s.world.z80.regs = z → MemoryOk s →
    (∃ m, exec .pushAf s = .next (afterZ80 s { fetched 1 1 z with sp := z.sp - 2 } m) ∧
      ∀ a, Memory.read m a =
        if a = z.sp - 1 then hi z.af else if a = z.sp - 2 then lo z.af else memRead a s) ∧
    (∃ m, exec .pushIx s = .next (afterZ80 s { fetched 2 2 z with sp := z.sp - 2 } m) ∧
      ∀ a, Memory.read m a =
        if a = z.sp - 1 then hi z.ix else if a = z.sp - 2 then lo z.ix else memRead a s) ∧
    (∃ m, exec .pushIy s = .next (afterZ80 s { fetched 2 2 z with sp := z.sp - 2 } m) ∧
      ∀ a, Memory.read m a =
        if a = z.sp - 1 then hi z.iy else if a = z.sp - 2 then lo z.iy else memRead a s) ∧
    exec .popAf s = .next (afterZ80 s { fetched 1 1 z with
      af := pair (memRead (z.sp + 1) s) (memRead z.sp s), sp := z.sp + 2 } s.world.mem)

/-- A Z80 that is off the bus or held in a wait makes no progress (70_reset_and_hazards.md R461, R462), and
one whose memory cycles wait stops in its next fetch. The byte after a prefix is fetched with M1, the
two bytes after DD CB or FD CB without, whether the cycle waits or not, and these leave R as it was
(30_encoding.md R109); ED with a second prefix byte is a no-operation of two M1 fetches, and CB
CB is `set 1,e` (70_reset_and_hazards.md R465). The model's own: that `set 1,e` sets bit 1 of E (log
entry 40); that a fetch waits whenever `S.wait_gen_mem` is set, where R187 says "only when" (log entry
14); that asserting RESET keeps the Z80 off the bus (log entry 6, and 95_test_vectors.md P4). -/
def Obligations.ZWaitsAndHolds : Prop :=
  ∀ (s : State) (i : Instr), i.isZ80 = true →
    (s.eng.mastered = true ∨ s.eng.lineReset = true ∨ s.world.present.isSome = true ∨
      s.eng.wait.asserted = true → exec i s = .next s) ∧
    (∀ f : CtrlFlags, offBus s = false → s.eng.waitGenMem = true → s.world.z80.wr = 0 →
      f = 0x35 ∧ s.world.z80.rx ∈ [[], [0xCB], [0xDD], [0xED], [0xFD]] ∨
      f = 0x25 ∧ s.world.z80.rx ∈ [[0xDD, 0xCB], [0xFD, 0xCB]] ∨
      f = 0x25 ∧ (∃ d, s.world.z80.rx ∈ [[0xDD, 0xCB, d], [0xFD, 0xCB, d]]) →
      ∃ settle, exec i s = .next ((drawSettle s).2.withWorld { (drawSettle s).2.world with
        present := some { flags := f, addr := s.world.z80.regs.pc, data := 0, settle := settle
                          byZ80 := true } })) ∧
    (offBus s = false → s.eng.waitGenMem = false → s.trk.pageOut = false →
      ∀ (z : Z80Regs) (b : Byte), z = s.world.z80.regs → b = memRead z.pc s →
      (s.world.z80.rx ∈ [[0xDD, 0xCB], [0xFD, 0xCB]] ∨
        (∃ d, s.world.z80.rx ∈ [[0xDD, 0xCB, d], [0xFD, 0xCB, d]]) →
        exec i s = .next (s.withWorld { s.world with
          z80 := { s.world.z80 with
            rx := s.world.z80.rx ++ [b], regs := { z with pc := z.pc + 1 } } })) ∧
      (s.world.z80.rx ∈ [[0xDD], [0xFD]] ∧ b = 0xCB ∨ s.world.z80.rx = [0xCB] ∧ b ≠ 0xCB →
        exec i s = .next (s.withWorld { s.world with
          z80 := { s.world.z80 with
            rx := s.world.z80.rx ++ [b], regs := { z with pc := z.pc + 1, r := r7add z.r 1 } } })) ∧
      (s.world.z80.rx = [0xED] → b ∈ [0xCB, 0xDD, 0xED, 0xFD] →
        exec i s = .next (afterZ80 s (fetched 1 1 z) s.world.mem)) ∧
      (s.world.z80.rx = [0xCB] → b = 0xCB →
        exec i s = .next (afterZ80 s { fetched 1 1 z with de := z.de ||| 0x0002 } s.world.mem)))

/-- The bus cycles of an instruction, none of which waits, add up to the instruction: its program bytes
read from PC on, its stack reads, then its writes in order (46_injection.md R361, 20_memory.md R89).
That one step runs the whole instruction is the model's choice (log entry 29), which this justifies. -/
def Obligations.ZCyclesAddUpToInstruction : Prop :=
  ∀ (s : State) (i : Instr) (rest : List Byte) (p : Plan),
    z80Free s = true → decodeZ80 (bytesAtPc s) = .ok (i, rest) → planOf i = some p →
    exec i s = .next (z80Cycles (p.m1 + p.rd + (p.writes s.world.z80.regs).length) s)

/-! ### The injected programs -/

/-- The bytes of a SET leave the Z80 with the snapshot's registers, at its PC, and make no write
(46_injection.md R370, R371). -/
def Obligations.SetLoadsRegisters : Prop :=
  ∀ (free : Byte) (z : Z80Regs) (r : Z80Registers), imSettable r.im →
    ∃ z', z80Feed free (setTemplate r) (z80Idle z) = ([], z80Idle z') ∧ snapshotOf z' = r ∧
      z'.iff1 = r.iff ∧ acceptsInterrupt z' = r.iff

/-- The bytes of a GET give the Z80 its registers back, at the PC it started from, make the 23 writes of
the template at their addresses, and decode to the registers (46_injection.md R362 to R367). The flags
that are not stated are free. -/
def Obligations.GetReadsRegisters : Prop :=
  ∀ (free : Byte) (z : Z80Regs) (imPrev : Byte),
    ∃ caps, getRun free z = (caps, z80Idle { z with eiShadow := false }) ∧ caps.length = 23 ∧
      decodeGet caps z.pc imPrev = { snapshotOf z with im := imPrev } ∧
      caps.map Prod.fst =
        [z.sp - 1, z.sp - 2, 0, z.sp - 3, z.sp - 4, 0, 1, 0, 1, 0, 1, 0, 1, 0, 1, 0, 1,
         z.sp - 5, z.sp - 6, z.sp - 7, z.sp - 8, z.sp - 9, z.sp - 10]

/-- A SET followed by a GET at the boundary it leads to reads back every field that was set
(46_injection.md R385). -/
def Obligations.RegisterRoundTrip : Prop :=
  ∀ (free free' : Byte) (z z' : Z80Regs) (r : Z80Registers), imSettable r.im →
    (z80Feed free (setTemplate r) (z80Idle z)).2 = z80Idle z' →
    decodeGet (getRun free' z').1 z'.pc r.im = r

/-! ### What every step keeps -/

/-- Every step keeps memory and the mirror in their canonical form. The form is the model's own (log entry
2); it makes equal memories equal data. -/
def Obligations.StepKeepsMemoryCanonical : Prop :=
  ∀ s t : State, MemoryOk s → step s = .next t → MemoryOk t

/-- Every step keeps the socket table and the aggregates computed from it (10_state.md R20, R23, R25,
40_socket_table.md R146), and the parameters never change. -/
def Obligations.StepKeepsSocketsAndAggregates : Prop :=
  ∀ s t : State, SocketsOk s → step s = .next t → SocketsOk t ∧ t.cfg = s.cfg ∧
    s.eng.numSockets ≤ t.eng.numSockets

/-- Every step keeps the bus with one owner (10_state.md R22, R24, 42_bus_actions.md R210, R218). -/
def Obligations.StepKeepsBusOwnership : Prop :=
  ∀ s t : State, BusOwnershipOk s → step s = .next t → BusOwnershipOk t

/-- Every step keeps the tracker's state machine coherent (45_tracker.md R316, R317, R332). -/
def Obligations.StepKeepsTrackerCoherent : Prop :=
  ∀ s t : State, TrackerOk s → step s = .next t → TrackerOk t

/-- Every step keeps the wait state coherent, and time never runs back (10_state.md R23, 41_wait_service.md
R170, 60_exceptions.md R427). -/
def Obligations.StepKeepsWaitAndTime : Prop :=
  ∀ s t : State, WaitOk s → step s = .next t → WaitOk t ∧ s.world.clock ≤ t.world.clock

/-- The state after start-of-day, at a glance (70_reset_and_hazards.md R450 to R452), for all parameters; it
meets every invariant. That the tracker is the only socket, so that there is one and no cycle waits, is
the model's choice (log entry 34), and so are the contents of memory and mirror that `MemoryOk` is
about (log entries 2 and 4). -/
def Obligations.StartOfDayState : Prop :=
  ∀ p : Params, p.ok →
    ∀ s, s = State.startOfDay p →
      s.eng.numSockets = 1 ∧ (sockAt s 0).enabled = false ∧ (sockAt s 0).waitOnMemory = true ∧
      (sockAt s 0).busMasterRequest = none ∧ (sockAt s 0).actionRequest = none ∧
      s.eng.act.status = .none ∧ s.eng.wait.asserted = false ∧ s.eng.wait.held = false ∧
      s.eng.wait.hold = false ∧ s.eng.mastered = false ∧ s.eng.waitGenMem = false ∧
      s.eng.waitGenIo = false ∧ s.eng.skipRefreshPrimed = false ∧ s.eng.lineReset = false ∧
      s.eng.lineNmi = false ∧ s.eng.lineIrq = false ∧ s.eng.lineBusrq = false ∧
      s.eng.counters = Counters.zero ∧ s.trk.state = .idle ∧ s.trk.enabled = false ∧
      s.trk.hist0 = true ∧ s.trk.hist1 = true ∧ s.trk.regs = Z80Registers.zero 0xFF ∧
      s.trk.regsValid = false ∧ s.trk.mirrorValid = false ∧
      (∀ e ∈ s.bp.fast ++ s.bp.slow, e.enabled = false) ∧ s.bp.globalEnable = false ∧
      MemoryOk s ∧ SocketsOk s ∧ BusOwnershipOk s ∧ TrackerOk s ∧ WaitOk s

/-- In every step, Injecting is entered only at a detected boundary fetch of an enabled tracker, and Idle
only by a disable; while Injecting, memory is paged out and a sequence exists (45_tracker.md R332). -/
def Obligations.InjectingOnlyAtBoundaryIdleOnlyByDisable : Prop :=
  ∀ s t : State, TrackerOk s → TableOk s → step s = .next t →
    (s.trk.state ≠ .injecting → t.trk.state = .injecting →
      s.trk.enabled = true ∧ s.trk.hist0 = false ∧ s.trk.holdArmed = false ∧
      s.eng.wait.asserted = false ∧ t.trk.cursor = 1 ∧
      isFetch t.eng.wait.cur.flags = true ∧ t.eng.wait.cur.addr = t.trk.boundaryPc ∧
      ∃ c, s.world.present = some c ∧ t.trk.boundaryPc = c.addr) ∧
    (s.trk.state ≠ .idle → t.trk.state = .idle →
      s.trk.disablePending = true ∨ ∃ p, (nextTurn s).1 = .host 0x10000000 p) ∧
    (t.trk.state = .injecting → t.trk.pageOut = true ∧ t.trk.seqKind ≠ .none)

/-- While memory is paged out, no bus cycle of the Z80 changes memory, whether it waits or not
(20_memory.md R87, R93). -/
def Obligations.PagedOutMemoryIsUntouched : Prop :=
  ∀ (s : State) (driven : Option Byte) (f : CtrlFlags) (a : Addr) (d : Byte) (b : Bool),
    s.trk.pageOut = true →
    (releaseWait driven s).world.mem = s.world.mem ∧
    (startCycle f a d b s).world.mem = s.world.mem ∧
    ∀ t, z80Turn s = .next t → t.world.mem = s.world.mem

end
end

