-- ==== Sys2Proof/Laws/Bits.lean ====
section
/-! SUPPORT. The bits of a 16-bit pair (20_memory.md R82), the three fields of a command word
(30_encoding.md R104), and the low seven bits of R (46_injection.md notation). -/

namespace Sys2Proof

theorem pair_getLsbD (a b : Byte) (i : Nat) :
    (pair a b).getLsbD i = if i < 8 then b.getLsbD i else a.getLsbD (i - 8) :=
  BitVec.getLsbD_append

theorem hi_getLsbD (x : BitVec 16) (i : Nat) : (hi x).getLsbD i = (decide (i < 8) && x.getLsbD (8 + i)) := by
  simp [hi]

theorem lo_getLsbD (x : BitVec 16) (i : Nat) : (lo x).getLsbD i = (decide (i < 8) && x.getLsbD i) := by
  simp [lo]

@[simp] theorem pair_hi_lo (x : BitVec 16) : pair (hi x) (lo x) = x := by
  apply BitVec.eq_of_getLsbD_eq
  intro i h
  rw [pair_getLsbD, hi_getLsbD, lo_getLsbD]
  by_cases h8 : i < 8
  · simp [h8]
  · simp [h8, show i - 8 < 8 by omega, show 8 + (i - 8) = i by omega]

@[simp] theorem hi_pair (a b : Byte) : hi (pair a b) = a := by
  apply BitVec.eq_of_getLsbD_eq
  intro i h
  rw [hi_getLsbD, pair_getLsbD]
  simp [h]

@[simp] theorem lo_pair (a b : Byte) : lo (pair a b) = b := by
  apply BitVec.eq_of_getLsbD_eq
  intro i h
  rw [lo_getLsbD, pair_getLsbD]
  simp [h]

theorem mkWord_getLsbD (op x : Byte) (imm : BitVec 16) (i : Nat) :
    (mkWord op x imm).getLsbD i =
      if i < 16 then imm.getLsbD i
      else if i - 16 < 8 then x.getLsbD (i - 16) else op.getLsbD (i - 16 - 8) := by
  have h : (op ++ x).getLsbD (i - 16) =
      if i - 16 < 8 then x.getLsbD (i - 16) else op.getLsbD (i - 16 - 8) := BitVec.getLsbD_append
  rw [← h]
  exact BitVec.getLsbD_append

@[simp] theorem wordOp_mkWord (op x : Byte) (imm : BitVec 16) : wordOp (mkWord op x imm) = op := by
  apply BitVec.eq_of_getLsbD_eq
  intro i h
  rw [wordOp, BitVec.getLsbD_extractLsb', mkWord_getLsbD]
  simp [h, show ¬ 24 + i < 16 by omega, show ¬ 24 + i - 16 < 8 by omega,
    show 24 + i - 16 - 8 = i by omega]

@[simp] theorem wordX_mkWord (op x : Byte) (imm : BitVec 16) : wordX (mkWord op x imm) = x := by
  apply BitVec.eq_of_getLsbD_eq
  intro i h
  rw [wordX, BitVec.getLsbD_extractLsb', mkWord_getLsbD]
  simp [h]

@[simp] theorem wordImm_mkWord (op x : Byte) (imm : BitVec 16) : wordImm (mkWord op x imm) = imm := by
  apply BitVec.eq_of_getLsbD_eq
  intro i h
  rw [wordImm, BitVec.getLsbD_extractLsb', mkWord_getLsbD]
  simp [h]

/-- A word is its three fields, and no other bit (30_encoding.md R104). -/
theorem mkWord_fields (w : Word32) : mkWord (wordOp w) (wordX w) (wordImm w) = w := by
  apply BitVec.eq_of_getLsbD_eq
  intro i h
  rw [mkWord_getLsbD, wordOp, wordX, wordImm]
  simp only [BitVec.getLsbD_extractLsb']
  by_cases h1 : i < 16
  · simp [h1]
  · by_cases h2 : i - 16 < 8
    · simp [h1, h2, show 16 + (i - 16) = i by omega]
    · simp [h1, h2, show i - 16 - 8 < 8 by omega, show 24 + (i - 16 - 8) = i by omega]

/-- Two words with the same fields are the same word. -/
theorem word_ext {v w : Word32} (ho : wordOp v = wordOp w) (hx : wordX v = wordX w)
    (hi : wordImm v = wordImm w) : v = w := by
  rw [← mkWord_fields v, ← mkWord_fields w, ho, hx, hi]

end Sys2Proof

namespace Sys2Proof.Machine

/-- Bit 7 of one byte and the low seven bits of another, as a number. -/
theorem mix7_toNat (x y : Byte) :
    ((x &&& 0x80#8) ||| (y &&& 0x7F#8)).toNat = 128 * (x.toNat / 128) + y.toNat % 128 := by
  have hx : (x &&& 0x80#8).toNat = 2 ^ 7 * (x.toNat / 128) := by revert x; decide
  have hy : (y &&& 0x7F#8).toNat = y.toNat % 128 := by revert y; decide
  rw [BitVec.toNat_or, hx, hy, ← Nat.two_pow_add_eq_or_of_lt (by omega)]

theorem r7add_toNat (x k : Byte) :
    (r7add x k).toNat = 128 * (x.toNat / 128) + (x.toNat + k.toNat) % 128 := by
  refine (mix7_toNat x (x + k)).trans ?_
  rw [BitVec.toNat_add]
  omega

theorem r7sub_toNat (x k : Byte) :
    (r7sub x k).toNat = 128 * (x.toNat / 128) + (x.toNat + 256 - k.toNat) % 128 := by
  refine (mix7_toNat x (x - k)).trans ?_
  rw [BitVec.toNat_sub]
  have := k.isLt
  omega

/-- Counting on R twice is counting on by the sum. -/
theorem r7add_r7add (x j k : Byte) : r7add (r7add x j) k = r7add x (j + k) := by
  apply BitVec.eq_of_toNat_eq
  simp only [r7add_toNat, BitVec.toNat_add]
  omega

/-- `r7sub` undoes `r7add` (46_injection.md R364). -/
@[simp] theorem r7sub_r7add (x k : Byte) : r7sub (r7add x k) k = x := by
  apply BitVec.eq_of_toNat_eq
  rw [r7sub_toNat, r7add_toNat]
  have := k.isLt
  have := x.isLt
  omega

/-- `r7add` undoes `r7sub` (46_injection.md R370). -/
@[simp] theorem r7add_r7sub (x k : Byte) : r7add (r7sub x k) k = x := by
  apply BitVec.eq_of_toNat_eq
  rw [r7add_toNat, r7sub_toNat]
  have := k.isLt
  have := x.isLt
  omega

end Sys2Proof.Machine
end

