-- ==== Sys2Proof/Laws/State.lean ====
section
/-! SUPPORT. One lemma per part of the state per update, true by `rfl`, so that no proof unfolds a record
update; and the same for the small updates of Ops.lean. -/

namespace Sys2Proof.Machine

@[simp] theorem State.withEng_cfg (s : State) (e : Engine) : (s.withEng e).cfg = s.cfg := rfl
@[simp] theorem State.withEng_eng (s : State) (e : Engine) : (s.withEng e).eng = e := rfl
@[simp] theorem State.withEng_trk (s : State) (e : Engine) : (s.withEng e).trk = s.trk := rfl
@[simp] theorem State.withEng_bp (s : State) (e : Engine) : (s.withEng e).bp = s.bp := rfl
@[simp] theorem State.withEng_port (s : State) (e : Engine) : (s.withEng e).port = s.port := rfl
@[simp] theorem State.withEng_world (s : State) (e : Engine) : (s.withEng e).world = s.world := rfl
@[simp] theorem State.withEng_self (s : State) : s.withEng s.eng = s := rfl
@[simp] theorem State.withEng_withEng (s : State) (e e' : Engine) : (s.withEng e).withEng e' = s.withEng e' := rfl

@[simp] theorem State.withTrk_cfg (s : State) (t : Tracker) : (s.withTrk t).cfg = s.cfg := rfl
@[simp] theorem State.withTrk_eng (s : State) (t : Tracker) : (s.withTrk t).eng = s.eng := rfl
@[simp] theorem State.withTrk_trk (s : State) (t : Tracker) : (s.withTrk t).trk = t := rfl
@[simp] theorem State.withTrk_bp (s : State) (t : Tracker) : (s.withTrk t).bp = s.bp := rfl
@[simp] theorem State.withTrk_port (s : State) (t : Tracker) : (s.withTrk t).port = s.port := rfl
@[simp] theorem State.withTrk_world (s : State) (t : Tracker) : (s.withTrk t).world = s.world := rfl
@[simp] theorem State.withTrk_self (s : State) : s.withTrk s.trk = s := rfl
@[simp] theorem State.withTrk_withTrk (s : State) (t t' : Tracker) : (s.withTrk t).withTrk t' = s.withTrk t' := rfl

@[simp] theorem State.withBp_cfg (s : State) (b : BpTables) : (s.withBp b).cfg = s.cfg := rfl
@[simp] theorem State.withBp_eng (s : State) (b : BpTables) : (s.withBp b).eng = s.eng := rfl
@[simp] theorem State.withBp_trk (s : State) (b : BpTables) : (s.withBp b).trk = s.trk := rfl
@[simp] theorem State.withBp_bp (s : State) (b : BpTables) : (s.withBp b).bp = b := rfl
@[simp] theorem State.withBp_port (s : State) (b : BpTables) : (s.withBp b).port = s.port := rfl
@[simp] theorem State.withBp_world (s : State) (b : BpTables) : (s.withBp b).world = s.world := rfl
@[simp] theorem State.withBp_self (s : State) : s.withBp s.bp = s := rfl
@[simp] theorem State.withBp_withBp (s : State) (b b' : BpTables) : (s.withBp b).withBp b' = s.withBp b' := rfl

@[simp] theorem State.withPort_cfg (s : State) (p : Port) : (s.withPort p).cfg = s.cfg := rfl
@[simp] theorem State.withPort_eng (s : State) (p : Port) : (s.withPort p).eng = s.eng := rfl
@[simp] theorem State.withPort_trk (s : State) (p : Port) : (s.withPort p).trk = s.trk := rfl
@[simp] theorem State.withPort_bp (s : State) (p : Port) : (s.withPort p).bp = s.bp := rfl
@[simp] theorem State.withPort_port (s : State) (p : Port) : (s.withPort p).port = p := rfl
@[simp] theorem State.withPort_world (s : State) (p : Port) : (s.withPort p).world = s.world := rfl
@[simp] theorem State.withPort_self (s : State) : s.withPort s.port = s := rfl
@[simp] theorem State.withPort_withPort (s : State) (p p' : Port) : (s.withPort p).withPort p' = s.withPort p' := rfl

@[simp] theorem State.withWorld_cfg (s : State) (w : World) : (s.withWorld w).cfg = s.cfg := rfl
@[simp] theorem State.withWorld_eng (s : State) (w : World) : (s.withWorld w).eng = s.eng := rfl
@[simp] theorem State.withWorld_trk (s : State) (w : World) : (s.withWorld w).trk = s.trk := rfl
@[simp] theorem State.withWorld_bp (s : State) (w : World) : (s.withWorld w).bp = s.bp := rfl
@[simp] theorem State.withWorld_port (s : State) (w : World) : (s.withWorld w).port = s.port := rfl
@[simp] theorem State.withWorld_world (s : State) (w : World) : (s.withWorld w).world = w := rfl
@[simp] theorem State.withWorld_self (s : State) : s.withWorld s.world = s := rfl
@[simp] theorem State.withWorld_withWorld (s : State) (w w' : World) : (s.withWorld w).withWorld w' = s.withWorld w' := rfl

/-! ### The result channel -/

@[simp] theorem State.answer_cfg (r : Ret) (s : State) : (s.answer r).cfg = s.cfg := rfl
@[simp] theorem State.answer_eng (r : Ret) (s : State) : (s.answer r).eng = s.eng := rfl
@[simp] theorem State.answer_trk (r : Ret) (s : State) : (s.answer r).trk = s.trk := rfl
@[simp] theorem State.answer_bp (r : Ret) (s : State) : (s.answer r).bp = s.bp := rfl
@[simp] theorem State.answer_world (r : Ret) (s : State) : (s.answer r).world = s.world := rfl
@[simp] theorem State.answer_result (r : Ret) (s : State) : (s.answer r).port.result = r := rfl
@[simp] theorem State.answer_payload (r : Ret) (s : State) : (s.answer r).port.payload = s.port.payload := rfl
@[simp] theorem State.answer_issuer (r : Ret) (s : State) : (s.answer r).port.issuer = s.port.issuer := rfl
@[simp] theorem finish_eq (r : Ret) (s : State) : finish (r, s) = .next (s.answer r) := rfl

/-! ### Sockets, aggregates, lines, records -/

@[simp] theorem setSock_cfg (h : Nat) (k : Socket) (s : State) : (setSock h k s).cfg = s.cfg := rfl
@[simp] theorem recompute_cfg (s : State) : (recompute s).cfg = s.cfg := rfl
@[simp] theorem setSock_trk (h : Nat) (k : Socket) (s : State) : (setSock h k s).trk = s.trk := rfl
@[simp] theorem recompute_trk (s : State) : (recompute s).trk = s.trk := rfl
@[simp] theorem setSock_bp (h : Nat) (k : Socket) (s : State) : (setSock h k s).bp = s.bp := rfl
@[simp] theorem recompute_bp (s : State) : (recompute s).bp = s.bp := rfl
@[simp] theorem setSock_port (h : Nat) (k : Socket) (s : State) : (setSock h k s).port = s.port := rfl
@[simp] theorem recompute_port (s : State) : (recompute s).port = s.port := rfl
@[simp] theorem setSock_world (h : Nat) (k : Socket) (s : State) : (setSock h k s).world = s.world := rfl
@[simp] theorem recompute_world (s : State) : (recompute s).world = s.world := rfl
@[simp] theorem setLine_cfg (a : BusAction) (v : Bool) (s : State) : (setLine a v s).cfg = s.cfg := by cases a <;> rfl
@[simp] theorem deassertLine_cfg (a : BusAction) (s : State) : (deassertLine a s).cfg = s.cfg := by cases a <;> rfl
@[simp] theorem setLine_trk (a : BusAction) (v : Bool) (s : State) : (setLine a v s).trk = s.trk := by cases a <;> rfl
@[simp] theorem deassertLine_trk (a : BusAction) (s : State) : (deassertLine a s).trk = s.trk := by cases a <;> rfl
@[simp] theorem setLine_bp (a : BusAction) (v : Bool) (s : State) : (setLine a v s).bp = s.bp := by cases a <;> rfl
@[simp] theorem deassertLine_bp (a : BusAction) (s : State) : (deassertLine a s).bp = s.bp := by cases a <;> rfl
@[simp] theorem setLine_port (a : BusAction) (v : Bool) (s : State) : (setLine a v s).port = s.port := by cases a <;> rfl
@[simp] theorem deassertLine_port (a : BusAction) (s : State) : (deassertLine a s).port = s.port := by cases a <;> rfl
@[simp] theorem setLine_world (a : BusAction) (v : Bool) (s : State) : (setLine a v s).world = s.world := by cases a <;> rfl
@[simp] theorem deassertLine_world (a : BusAction) (s : State) : (deassertLine a s).world = s.world := by cases a <;> rfl
@[simp] theorem assertLine_cfg (a : BusAction) (s : State) : (assertLine a s).cfg = s.cfg := by cases a <;> rfl
@[simp] theorem assertLine_trk (a : BusAction) (s : State) : (assertLine a s).trk = s.trk := by cases a <;> rfl
@[simp] theorem assertLine_bp (a : BusAction) (s : State) : (assertLine a s).bp = s.bp := by cases a <;> rfl
@[simp] theorem assertLine_port (a : BusAction) (s : State) : (assertLine a s).port = s.port := by cases a <;> rfl
@[simp] theorem logCall_cfg (c : CallRecord) (s : State) : (logCall c s).cfg = s.cfg := rfl
@[simp] theorem memWrite_cfg (a : Addr) (b : Byte) (s : State) : (memWrite a b s).cfg = s.cfg := rfl
@[simp] theorem ioWrite_cfg (a : Addr) (b : Byte) (s : State) : (ioWrite a b s).cfg = s.cfg := rfl
@[simp] theorem z80Reset_cfg (s : State) : (z80Reset s).cfg = s.cfg := rfl
@[simp] theorem logCall_eng (c : CallRecord) (s : State) : (logCall c s).eng = s.eng := rfl
@[simp] theorem memWrite_eng (a : Addr) (b : Byte) (s : State) : (memWrite a b s).eng = s.eng := rfl
@[simp] theorem ioWrite_eng (a : Addr) (b : Byte) (s : State) : (ioWrite a b s).eng = s.eng := rfl
@[simp] theorem z80Reset_eng (s : State) : (z80Reset s).eng = s.eng := rfl
@[simp] theorem logCall_trk (c : CallRecord) (s : State) : (logCall c s).trk = s.trk := rfl
@[simp] theorem memWrite_trk (a : Addr) (b : Byte) (s : State) : (memWrite a b s).trk = s.trk := rfl
@[simp] theorem ioWrite_trk (a : Addr) (b : Byte) (s : State) : (ioWrite a b s).trk = s.trk := rfl
@[simp] theorem z80Reset_trk (s : State) : (z80Reset s).trk = s.trk := rfl
@[simp] theorem logCall_bp (c : CallRecord) (s : State) : (logCall c s).bp = s.bp := rfl
@[simp] theorem memWrite_bp (a : Addr) (b : Byte) (s : State) : (memWrite a b s).bp = s.bp := rfl
@[simp] theorem ioWrite_bp (a : Addr) (b : Byte) (s : State) : (ioWrite a b s).bp = s.bp := rfl
@[simp] theorem z80Reset_bp (s : State) : (z80Reset s).bp = s.bp := rfl
@[simp] theorem logCall_port (c : CallRecord) (s : State) : (logCall c s).port = s.port := rfl
@[simp] theorem memWrite_port (a : Addr) (b : Byte) (s : State) : (memWrite a b s).port = s.port := rfl
@[simp] theorem ioWrite_port (a : Addr) (b : Byte) (s : State) : (ioWrite a b s).port = s.port := rfl
@[simp] theorem z80Reset_port (s : State) : (z80Reset s).port = s.port := rfl
@[simp] theorem setSock_eng_numSockets (h : Nat) (k : Socket) (s : State) : (setSock h k s).eng.numSockets = s.eng.numSockets := rfl
@[simp] theorem setSock_eng_act (h : Nat) (k : Socket) (s : State) : (setSock h k s).eng.act = s.eng.act := rfl
@[simp] theorem setSock_eng_mastered (h : Nat) (k : Socket) (s : State) : (setSock h k s).eng.mastered = s.eng.mastered := rfl
@[simp] theorem setSock_eng_waitGenMem (h : Nat) (k : Socket) (s : State) : (setSock h k s).eng.waitGenMem = s.eng.waitGenMem := rfl
@[simp] theorem setSock_eng_waitGenIo (h : Nat) (k : Socket) (s : State) : (setSock h k s).eng.waitGenIo = s.eng.waitGenIo := rfl
@[simp] theorem setSock_eng_skipRefreshPrimed (h : Nat) (k : Socket) (s : State) : (setSock h k s).eng.skipRefreshPrimed = s.eng.skipRefreshPrimed := rfl
@[simp] theorem setSock_eng_lineReset (h : Nat) (k : Socket) (s : State) : (setSock h k s).eng.lineReset = s.eng.lineReset := rfl
@[simp] theorem setSock_eng_lineNmi (h : Nat) (k : Socket) (s : State) : (setSock h k s).eng.lineNmi = s.eng.lineNmi := rfl
@[simp] theorem setSock_eng_lineIrq (h : Nat) (k : Socket) (s : State) : (setSock h k s).eng.lineIrq = s.eng.lineIrq := rfl
@[simp] theorem setSock_eng_lineBusrq (h : Nat) (k : Socket) (s : State) : (setSock h k s).eng.lineBusrq = s.eng.lineBusrq := rfl
@[simp] theorem setSock_eng_busDriven (h : Nat) (k : Socket) (s : State) : (setSock h k s).eng.busDriven = s.eng.busDriven := rfl
@[simp] theorem setSock_eng_counters (h : Nat) (k : Socket) (s : State) : (setSock h k s).eng.counters = s.eng.counters := rfl
@[simp] theorem setSock_eng_wait (h : Nat) (k : Socket) (s : State) : (setSock h k s).eng.wait = s.eng.wait := rfl
@[simp] theorem setSock_eng_sock (h : Nat) (k : Socket) (s : State) : (setSock h k s).eng.sock = s.eng.sock.set h k := rfl
@[simp] theorem recompute_eng_sock (s : State) : (recompute s).eng.sock = s.eng.sock := rfl
@[simp] theorem recompute_eng_numSockets (s : State) : (recompute s).eng.numSockets = s.eng.numSockets := rfl
@[simp] theorem recompute_eng_act (s : State) : (recompute s).eng.act = s.eng.act := rfl
@[simp] theorem recompute_eng_mastered (s : State) : (recompute s).eng.mastered = s.eng.mastered := rfl
@[simp] theorem recompute_eng_skipRefreshPrimed (s : State) : (recompute s).eng.skipRefreshPrimed = s.eng.skipRefreshPrimed := rfl
@[simp] theorem recompute_eng_lineReset (s : State) : (recompute s).eng.lineReset = s.eng.lineReset := rfl
@[simp] theorem recompute_eng_lineNmi (s : State) : (recompute s).eng.lineNmi = s.eng.lineNmi := rfl
@[simp] theorem recompute_eng_lineIrq (s : State) : (recompute s).eng.lineIrq = s.eng.lineIrq := rfl
@[simp] theorem recompute_eng_lineBusrq (s : State) : (recompute s).eng.lineBusrq = s.eng.lineBusrq := rfl
@[simp] theorem recompute_eng_busDriven (s : State) : (recompute s).eng.busDriven = s.eng.busDriven := rfl
@[simp] theorem recompute_eng_counters (s : State) : (recompute s).eng.counters = s.eng.counters := rfl
@[simp] theorem recompute_wait_asserted (s : State) : (recompute s).eng.wait.asserted = s.eng.wait.asserted := rfl
@[simp] theorem recompute_wait_assertedAt (s : State) : (recompute s).eng.wait.assertedAt = s.eng.wait.assertedAt := rfl
@[simp] theorem recompute_wait_cycleLength (s : State) : (recompute s).eng.wait.cycleLength = s.eng.wait.cycleLength := rfl
@[simp] theorem recompute_wait_held (s : State) : (recompute s).eng.wait.held = s.eng.wait.held := rfl
@[simp] theorem recompute_wait_cur (s : State) : (recompute s).eng.wait.cur = s.eng.wait.cur := rfl
@[simp] theorem setLine_eng_sock (a : BusAction) (v : Bool) (s : State) : (setLine a v s).eng.sock = s.eng.sock := by cases a <;> rfl
@[simp] theorem deassertLine_eng_sock (a : BusAction) (s : State) : (deassertLine a s).eng.sock = s.eng.sock := by cases a <;> rfl
@[simp] theorem assertLine_eng_sock (a : BusAction) (s : State) : (assertLine a s).eng.sock = s.eng.sock := by cases a <;> rfl
@[simp] theorem setLine_eng_numSockets (a : BusAction) (v : Bool) (s : State) : (setLine a v s).eng.numSockets = s.eng.numSockets := by cases a <;> rfl
@[simp] theorem deassertLine_eng_numSockets (a : BusAction) (s : State) : (deassertLine a s).eng.numSockets = s.eng.numSockets := by cases a <;> rfl
@[simp] theorem assertLine_eng_numSockets (a : BusAction) (s : State) : (assertLine a s).eng.numSockets = s.eng.numSockets := by cases a <;> rfl
@[simp] theorem setLine_eng_act (a : BusAction) (v : Bool) (s : State) : (setLine a v s).eng.act = s.eng.act := by cases a <;> rfl
@[simp] theorem deassertLine_eng_act (a : BusAction) (s : State) : (deassertLine a s).eng.act = s.eng.act := by cases a <;> rfl
@[simp] theorem assertLine_eng_act (a : BusAction) (s : State) : (assertLine a s).eng.act = s.eng.act := by cases a <;> rfl
@[simp] theorem setLine_eng_mastered (a : BusAction) (v : Bool) (s : State) : (setLine a v s).eng.mastered = s.eng.mastered := by cases a <;> rfl
@[simp] theorem deassertLine_eng_mastered (a : BusAction) (s : State) : (deassertLine a s).eng.mastered = s.eng.mastered := by cases a <;> rfl
@[simp] theorem assertLine_eng_mastered (a : BusAction) (s : State) : (assertLine a s).eng.mastered = s.eng.mastered := by cases a <;> rfl
@[simp] theorem setLine_eng_waitGenMem (a : BusAction) (v : Bool) (s : State) : (setLine a v s).eng.waitGenMem = s.eng.waitGenMem := by cases a <;> rfl
@[simp] theorem deassertLine_eng_waitGenMem (a : BusAction) (s : State) : (deassertLine a s).eng.waitGenMem = s.eng.waitGenMem := by cases a <;> rfl
@[simp] theorem assertLine_eng_waitGenMem (a : BusAction) (s : State) : (assertLine a s).eng.waitGenMem = s.eng.waitGenMem := by cases a <;> rfl
@[simp] theorem setLine_eng_waitGenIo (a : BusAction) (v : Bool) (s : State) : (setLine a v s).eng.waitGenIo = s.eng.waitGenIo := by cases a <;> rfl
@[simp] theorem deassertLine_eng_waitGenIo (a : BusAction) (s : State) : (deassertLine a s).eng.waitGenIo = s.eng.waitGenIo := by cases a <;> rfl
@[simp] theorem assertLine_eng_waitGenIo (a : BusAction) (s : State) : (assertLine a s).eng.waitGenIo = s.eng.waitGenIo := by cases a <;> rfl
@[simp] theorem setLine_eng_skipRefreshPrimed (a : BusAction) (v : Bool) (s : State) : (setLine a v s).eng.skipRefreshPrimed = s.eng.skipRefreshPrimed := by cases a <;> rfl
@[simp] theorem deassertLine_eng_skipRefreshPrimed (a : BusAction) (s : State) : (deassertLine a s).eng.skipRefreshPrimed = s.eng.skipRefreshPrimed := by cases a <;> rfl
@[simp] theorem assertLine_eng_skipRefreshPrimed (a : BusAction) (s : State) : (assertLine a s).eng.skipRefreshPrimed = s.eng.skipRefreshPrimed := by cases a <;> rfl
@[simp] theorem setLine_eng_busDriven (a : BusAction) (v : Bool) (s : State) : (setLine a v s).eng.busDriven = s.eng.busDriven := by cases a <;> rfl
@[simp] theorem deassertLine_eng_busDriven (a : BusAction) (s : State) : (deassertLine a s).eng.busDriven = s.eng.busDriven := by cases a <;> rfl
@[simp] theorem assertLine_eng_busDriven (a : BusAction) (s : State) : (assertLine a s).eng.busDriven = s.eng.busDriven := by cases a <;> rfl
@[simp] theorem setLine_eng_counters (a : BusAction) (v : Bool) (s : State) : (setLine a v s).eng.counters = s.eng.counters := by cases a <;> rfl
@[simp] theorem deassertLine_eng_counters (a : BusAction) (s : State) : (deassertLine a s).eng.counters = s.eng.counters := by cases a <;> rfl
@[simp] theorem assertLine_eng_counters (a : BusAction) (s : State) : (assertLine a s).eng.counters = s.eng.counters := by cases a <;> rfl
@[simp] theorem setLine_eng_wait (a : BusAction) (v : Bool) (s : State) : (setLine a v s).eng.wait = s.eng.wait := by cases a <;> rfl
@[simp] theorem deassertLine_eng_wait (a : BusAction) (s : State) : (deassertLine a s).eng.wait = s.eng.wait := by cases a <;> rfl
@[simp] theorem assertLine_eng_wait (a : BusAction) (s : State) : (assertLine a s).eng.wait = s.eng.wait := by cases a <;> rfl

end Sys2Proof.Machine
end

