-- ==== Sys2Proof/Laws/Breakpoints.lean ====
section
/-! SUPPORT. The search of one breakpoint table (44_boundary_breakpoints.md R289). -/

namespace Sys2Proof.Machine

/-- The search reports an index exactly when the entry there is enabled with this pc and no lower entry
is. -/
theorem findHit_some (addr : Addr) (l : List Breakpoint) (n i : Nat) (msg : String) :
    findHit addr n l = some (i, msg) ↔
      ∃ k, i = n + k ∧ l[k]? = some { enabled := true, pc := addr, hitMessage := msg } ∧
        ∀ j, j < k → ∀ m, l[j]? ≠ some { enabled := true, pc := addr, hitMessage := m } := by
  induction l generalizing n with
  | nil => simp [findHit]
  | cons e es ih =>
    unfold findHit
    by_cases he : e.enabled = true ∧ e.pc = addr
    · rw [if_pos (by simp [he.1, he.2])]
      constructor
      · rintro h
        simp only [Option.some.injEq, Prod.mk.injEq] at h
        obtain ⟨rfl, rfl⟩ := h
        refine ⟨0, rfl, ?_, by intro j hj; omega⟩
        cases e
        simp_all
      · rintro ⟨k, rfl, h1, h2⟩
        cases k with
        | zero =>
          simp only [List.getElem?_cons_zero, Option.some.injEq] at h1
          simp [h1]
        | succ k =>
          refine absurd ?_ (h2 0 (by omega) e.hitMessage)
          cases e
          simp_all
    · rw [if_neg (by simpa using he), ih]
      constructor
      · rintro ⟨k, rfl, h1, h2⟩
        refine ⟨k + 1, by omega, by simpa using h1, ?_⟩
        intro j hj m
        cases j with
        | zero =>
          simp only [List.getElem?_cons_zero, ne_eq, Option.some.injEq]
          rintro rfl
          exact he ⟨rfl, rfl⟩
        | succ j => simpa using h2 j (by omega) m
      · rintro ⟨k, rfl, h1, h2⟩
        cases k with
        | zero =>
          simp only [List.getElem?_cons_zero, Option.some.injEq] at h1
          subst h1
          exact absurd ⟨rfl, rfl⟩ he
        | succ k =>
          refine ⟨k, by omega, by simpa using h1, ?_⟩
          intro j hj m
          simpa using h2 (j + 1) (by omega) m

/-- The search reports nothing exactly when no entry is enabled with this pc. -/
theorem findHit_none (addr : Addr) (l : List Breakpoint) (n : Nat) :
    findHit addr n l = none ↔ ∀ e ∈ l, ¬ (e.enabled = true ∧ e.pc = addr) := by
  induction l generalizing n with
  | nil => simp [findHit]
  | cons e es ih =>
    unfold findHit
    by_cases he : e.enabled = true ∧ e.pc = addr
    · simp [he]
    · rw [if_neg (by simpa using he), ih]
      simp only [List.mem_cons, forall_eq_or_imp]
      exact ⟨fun h => ⟨he, h⟩, fun h => h.2⟩

/-- Writing an entry writes that one, and no other entry of either table. -/
theorem bpWrite_table {t : BpTable} {i : Nat} {s : State} (hi : i < (bpTable t s.bp).length)
    (e : Breakpoint) :
    (bpTable t (bpWrite t i e s).bp)[i]? = some e ∧
    ∀ (t' : BpTable) (j : Nat), (t', j) ≠ (t, i) →
      (bpTable t' (bpWrite t i e s).bp)[j]? = (bpTable t' s.bp)[j]? := by
  refine ⟨?_, fun t' j hne => ?_⟩
  · cases t <;> exact List.getElem?_set_self hi
  · cases t <;> cases t' <;> simp [bpWrite, bpTable] at hne ⊢ <;>
      (rw [List.getElem?_set]; simp; intro h; omega)

@[simp] theorem bpWrite_globalEnable (t : BpTable) (i : Nat) (e : Breakpoint) (s : State) :
    (bpWrite t i e s).bp.globalEnable = s.bp.globalEnable := by cases t <;> rfl

/-- Writing an entry changes the breakpoint tables only. -/
theorem bpWrite_frame (t : BpTable) (i : Nat) (e : Breakpoint) (s : State) :
    bpWrite t i e s = s.withBp (bpWrite t i e s).bp := by cases t <;> rfl

end Sys2Proof.Machine
end

