-- ==== Sys2Proof/Laws/Environment.lean ====
section
/-! SUPPORT. What a draw of the environment changes: time, and the lists of values that the environment
supplies next (00_scope.md R12). Nothing else of the state. -/

namespace Sys2Proof.Machine

/-- All that `now()` can do: time grows by the next listed amount, or by at least 1. -/
theorem now_cases (s : State) :
    (∃ d ds, s.world.timeDraws = d :: ds ∧ (now s).1 = s.world.clock + d ∧
      (now s).2 = s.withWorld { s.world with clock := s.world.clock + d, timeDraws := ds }) ∨
    (s.world.timeDraws = [] ∧ ∃ d, (now s).1 = s.world.clock + (d + 1) ∧
      (now s).2 = s.withWorld { s.world with
        clock := s.world.clock + (d + 1), draws := s.world.draws + 1 }) := by
  cases h : s.world.timeDraws with
  | cons d ds => exact .inl ⟨d, ds, rfl, by simp [now, h]⟩
  | nil => exact .inr ⟨rfl, Config.freeTime s.world.draws, by simp [now, h]⟩

/-- The time that `now()` gives is the clock after it. -/
theorem now_clock (s : State) : (now s).2.world.clock = (now s).1 := by
  obtain ⟨d, ds, -, h1, h2⟩ | ⟨-, d, h1, h2⟩ := now_cases s <;> simp [h1, h2]

/-- Time never runs back (00_scope.md R12). -/
theorem now_le (s : State) : s.world.clock ≤ (now s).1 := by
  obtain ⟨d, ds, -, h1, -⟩ | ⟨-, d, h1, -⟩ := now_cases s <;> simp [h1]

/-! ### `now` -/

@[simp] theorem now_cfg (s : State) : (now s).2.cfg = s.cfg := by
  unfold now; split <;> rfl
@[simp] theorem now_eng (s : State) : (now s).2.eng = s.eng := by
  unfold now; split <;> rfl
@[simp] theorem now_trk (s : State) : (now s).2.trk = s.trk := by
  unfold now; split <;> rfl
@[simp] theorem now_bp (s : State) : (now s).2.bp = s.bp := by
  unfold now; split <;> rfl
@[simp] theorem now_port (s : State) : (now s).2.port = s.port := by
  unfold now; split <;> rfl
@[simp] theorem now_mem (s : State) : (now s).2.world.mem = s.world.mem := by
  unfold now; split <;> rfl
@[simp] theorem now_z80 (s : State) : (now s).2.world.z80 = s.world.z80 := by
  unfold now; split <;> rfl
@[simp] theorem now_present (s : State) : (now s).2.world.present = s.world.present := by
  unfold now; split <;> rfl
@[simp] theorem now_delivered (s : State) : (now s).2.world.delivered = s.world.delivered := by
  unfold now; split <;> rfl
@[simp] theorem now_agenda (s : State) : (now s).2.world.agenda = s.world.agenda := by
  unfold now; split <;> rfl
@[simp] theorem now_busackDraws (s : State) : (now s).2.world.busackDraws = s.world.busackDraws := by
  unfold now; split <;> rfl
@[simp] theorem now_byteDraws (s : State) : (now s).2.world.byteDraws = s.world.byteDraws := by
  unfold now; split <;> rfl
@[simp] theorem now_diagDraws (s : State) : (now s).2.world.diagDraws = s.world.diagDraws := by
  unfold now; split <;> rfl
@[simp] theorem now_settleDraws (s : State) : (now s).2.world.settleDraws = s.world.settleDraws := by
  unfold now; split <;> rfl
@[simp] theorem now_ioWrites (s : State) : (now s).2.world.ioWrites = s.world.ioWrites := by
  unfold now; split <;> rfl
@[simp] theorem now_calls (s : State) : (now s).2.world.calls = s.world.calls := by
  unfold now; split <;> rfl

/-! ### `sampleBusack` -/

@[simp] theorem sampleBusack_cfg (s : State) : (sampleBusack s).2.cfg = s.cfg := by
  unfold sampleBusack; split <;> rfl
@[simp] theorem sampleBusack_eng (s : State) : (sampleBusack s).2.eng = s.eng := by
  unfold sampleBusack; split <;> rfl
@[simp] theorem sampleBusack_trk (s : State) : (sampleBusack s).2.trk = s.trk := by
  unfold sampleBusack; split <;> rfl
@[simp] theorem sampleBusack_bp (s : State) : (sampleBusack s).2.bp = s.bp := by
  unfold sampleBusack; split <;> rfl
@[simp] theorem sampleBusack_port (s : State) : (sampleBusack s).2.port = s.port := by
  unfold sampleBusack; split <;> rfl
@[simp] theorem sampleBusack_mem (s : State) : (sampleBusack s).2.world.mem = s.world.mem := by
  unfold sampleBusack; split <;> rfl
@[simp] theorem sampleBusack_z80 (s : State) : (sampleBusack s).2.world.z80 = s.world.z80 := by
  unfold sampleBusack; split <;> rfl
@[simp] theorem sampleBusack_present (s : State) : (sampleBusack s).2.world.present = s.world.present := by
  unfold sampleBusack; split <;> rfl
@[simp] theorem sampleBusack_delivered (s : State) : (sampleBusack s).2.world.delivered = s.world.delivered := by
  unfold sampleBusack; split <;> rfl
@[simp] theorem sampleBusack_clock (s : State) : (sampleBusack s).2.world.clock = s.world.clock := by
  unfold sampleBusack; split <;> rfl
@[simp] theorem sampleBusack_agenda (s : State) : (sampleBusack s).2.world.agenda = s.world.agenda := by
  unfold sampleBusack; split <;> rfl
@[simp] theorem sampleBusack_timeDraws (s : State) : (sampleBusack s).2.world.timeDraws = s.world.timeDraws := by
  unfold sampleBusack; split <;> rfl
@[simp] theorem sampleBusack_byteDraws (s : State) : (sampleBusack s).2.world.byteDraws = s.world.byteDraws := by
  unfold sampleBusack; split <;> rfl
@[simp] theorem sampleBusack_diagDraws (s : State) : (sampleBusack s).2.world.diagDraws = s.world.diagDraws := by
  unfold sampleBusack; split <;> rfl
@[simp] theorem sampleBusack_settleDraws (s : State) : (sampleBusack s).2.world.settleDraws = s.world.settleDraws := by
  unfold sampleBusack; split <;> rfl
@[simp] theorem sampleBusack_ioWrites (s : State) : (sampleBusack s).2.world.ioWrites = s.world.ioWrites := by
  unfold sampleBusack; split <;> rfl
@[simp] theorem sampleBusack_calls (s : State) : (sampleBusack s).2.world.calls = s.world.calls := by
  unfold sampleBusack; split <;> rfl

/-! ### `drawByte` -/

@[simp] theorem drawByte_cfg (s : State) : (drawByte s).2.cfg = s.cfg := by
  unfold drawByte; split <;> rfl
@[simp] theorem drawByte_eng (s : State) : (drawByte s).2.eng = s.eng := by
  unfold drawByte; split <;> rfl
@[simp] theorem drawByte_trk (s : State) : (drawByte s).2.trk = s.trk := by
  unfold drawByte; split <;> rfl
@[simp] theorem drawByte_bp (s : State) : (drawByte s).2.bp = s.bp := by
  unfold drawByte; split <;> rfl
@[simp] theorem drawByte_port (s : State) : (drawByte s).2.port = s.port := by
  unfold drawByte; split <;> rfl
@[simp] theorem drawByte_mem (s : State) : (drawByte s).2.world.mem = s.world.mem := by
  unfold drawByte; split <;> rfl
@[simp] theorem drawByte_z80 (s : State) : (drawByte s).2.world.z80 = s.world.z80 := by
  unfold drawByte; split <;> rfl
@[simp] theorem drawByte_present (s : State) : (drawByte s).2.world.present = s.world.present := by
  unfold drawByte; split <;> rfl
@[simp] theorem drawByte_delivered (s : State) : (drawByte s).2.world.delivered = s.world.delivered := by
  unfold drawByte; split <;> rfl
@[simp] theorem drawByte_clock (s : State) : (drawByte s).2.world.clock = s.world.clock := by
  unfold drawByte; split <;> rfl
@[simp] theorem drawByte_agenda (s : State) : (drawByte s).2.world.agenda = s.world.agenda := by
  unfold drawByte; split <;> rfl
@[simp] theorem drawByte_timeDraws (s : State) : (drawByte s).2.world.timeDraws = s.world.timeDraws := by
  unfold drawByte; split <;> rfl
@[simp] theorem drawByte_busackDraws (s : State) : (drawByte s).2.world.busackDraws = s.world.busackDraws := by
  unfold drawByte; split <;> rfl
@[simp] theorem drawByte_diagDraws (s : State) : (drawByte s).2.world.diagDraws = s.world.diagDraws := by
  unfold drawByte; split <;> rfl
@[simp] theorem drawByte_settleDraws (s : State) : (drawByte s).2.world.settleDraws = s.world.settleDraws := by
  unfold drawByte; split <;> rfl
@[simp] theorem drawByte_ioWrites (s : State) : (drawByte s).2.world.ioWrites = s.world.ioWrites := by
  unfold drawByte; split <;> rfl
@[simp] theorem drawByte_calls (s : State) : (drawByte s).2.world.calls = s.world.calls := by
  unfold drawByte; split <;> rfl

/-! ### `drawDiag` -/

@[simp] theorem drawDiag_cfg (s : State) : (drawDiag s).2.cfg = s.cfg := by
  unfold drawDiag; split <;> rfl
@[simp] theorem drawDiag_eng (s : State) : (drawDiag s).2.eng = s.eng := by
  unfold drawDiag; split <;> rfl
@[simp] theorem drawDiag_trk (s : State) : (drawDiag s).2.trk = s.trk := by
  unfold drawDiag; split <;> rfl
@[simp] theorem drawDiag_bp (s : State) : (drawDiag s).2.bp = s.bp := by
  unfold drawDiag; split <;> rfl
@[simp] theorem drawDiag_port (s : State) : (drawDiag s).2.port = s.port := by
  unfold drawDiag; split <;> rfl
@[simp] theorem drawDiag_mem (s : State) : (drawDiag s).2.world.mem = s.world.mem := by
  unfold drawDiag; split <;> rfl
@[simp] theorem drawDiag_z80 (s : State) : (drawDiag s).2.world.z80 = s.world.z80 := by
  unfold drawDiag; split <;> rfl
@[simp] theorem drawDiag_present (s : State) : (drawDiag s).2.world.present = s.world.present := by
  unfold drawDiag; split <;> rfl
@[simp] theorem drawDiag_delivered (s : State) : (drawDiag s).2.world.delivered = s.world.delivered := by
  unfold drawDiag; split <;> rfl
@[simp] theorem drawDiag_clock (s : State) : (drawDiag s).2.world.clock = s.world.clock := by
  unfold drawDiag; split <;> rfl
@[simp] theorem drawDiag_agenda (s : State) : (drawDiag s).2.world.agenda = s.world.agenda := by
  unfold drawDiag; split <;> rfl
@[simp] theorem drawDiag_timeDraws (s : State) : (drawDiag s).2.world.timeDraws = s.world.timeDraws := by
  unfold drawDiag; split <;> rfl
@[simp] theorem drawDiag_busackDraws (s : State) : (drawDiag s).2.world.busackDraws = s.world.busackDraws := by
  unfold drawDiag; split <;> rfl
@[simp] theorem drawDiag_byteDraws (s : State) : (drawDiag s).2.world.byteDraws = s.world.byteDraws := by
  unfold drawDiag; split <;> rfl
@[simp] theorem drawDiag_settleDraws (s : State) : (drawDiag s).2.world.settleDraws = s.world.settleDraws := by
  unfold drawDiag; split <;> rfl
@[simp] theorem drawDiag_ioWrites (s : State) : (drawDiag s).2.world.ioWrites = s.world.ioWrites := by
  unfold drawDiag; split <;> rfl
@[simp] theorem drawDiag_calls (s : State) : (drawDiag s).2.world.calls = s.world.calls := by
  unfold drawDiag; split <;> rfl

/-! ### `drawSettle` -/

@[simp] theorem drawSettle_cfg (s : State) : (drawSettle s).2.cfg = s.cfg := by
  unfold drawSettle; split <;> rfl
@[simp] theorem drawSettle_eng (s : State) : (drawSettle s).2.eng = s.eng := by
  unfold drawSettle; split <;> rfl
@[simp] theorem drawSettle_trk (s : State) : (drawSettle s).2.trk = s.trk := by
  unfold drawSettle; split <;> rfl
@[simp] theorem drawSettle_bp (s : State) : (drawSettle s).2.bp = s.bp := by
  unfold drawSettle; split <;> rfl
@[simp] theorem drawSettle_port (s : State) : (drawSettle s).2.port = s.port := by
  unfold drawSettle; split <;> rfl
@[simp] theorem drawSettle_mem (s : State) : (drawSettle s).2.world.mem = s.world.mem := by
  unfold drawSettle; split <;> rfl
@[simp] theorem drawSettle_z80 (s : State) : (drawSettle s).2.world.z80 = s.world.z80 := by
  unfold drawSettle; split <;> rfl
@[simp] theorem drawSettle_present (s : State) : (drawSettle s).2.world.present = s.world.present := by
  unfold drawSettle; split <;> rfl
@[simp] theorem drawSettle_delivered (s : State) : (drawSettle s).2.world.delivered = s.world.delivered := by
  unfold drawSettle; split <;> rfl
@[simp] theorem drawSettle_clock (s : State) : (drawSettle s).2.world.clock = s.world.clock := by
  unfold drawSettle; split <;> rfl
@[simp] theorem drawSettle_agenda (s : State) : (drawSettle s).2.world.agenda = s.world.agenda := by
  unfold drawSettle; split <;> rfl
@[simp] theorem drawSettle_timeDraws (s : State) : (drawSettle s).2.world.timeDraws = s.world.timeDraws := by
  unfold drawSettle; split <;> rfl
@[simp] theorem drawSettle_busackDraws (s : State) : (drawSettle s).2.world.busackDraws = s.world.busackDraws := by
  unfold drawSettle; split <;> rfl
@[simp] theorem drawSettle_byteDraws (s : State) : (drawSettle s).2.world.byteDraws = s.world.byteDraws := by
  unfold drawSettle; split <;> rfl
@[simp] theorem drawSettle_diagDraws (s : State) : (drawSettle s).2.world.diagDraws = s.world.diagDraws := by
  unfold drawSettle; split <;> rfl
@[simp] theorem drawSettle_ioWrites (s : State) : (drawSettle s).2.world.ioWrites = s.world.ioWrites := by
  unfold drawSettle; split <;> rfl
@[simp] theorem drawSettle_calls (s : State) : (drawSettle s).2.world.calls = s.world.calls := by
  unfold drawSettle; split <;> rfl

/-! ### Values that are listed -/

theorem now_listed {s : State} {d : Nat} {ds : List Nat} (h : s.world.timeDraws = d :: ds) :
    now s = (s.world.clock + d,
      s.withWorld { s.world with clock := s.world.clock + d, timeDraws := ds }) := by
  simp [now, h]

theorem sampleBusack_listed {s : State} {b : Bool} {bs : List Bool} (h : s.world.busackDraws = b :: bs) :
    sampleBusack s = (b, s.withWorld { s.world with busackDraws := bs }) := by
  simp [sampleBusack, h]

theorem drawByte_listed {s : State} {b : Byte} {bs : List Byte} (h : s.world.byteDraws = b :: bs) :
    drawByte s = (b, s.withWorld { s.world with byteDraws := bs }) := by
  simp [drawByte, h]

/-! ### Samples of the bus -/

@[simp] theorem pollBusack_state (s : State) : (pollBusack s).2 = (sampleBusack s).2 := rfl

/-- A Z80 held in a wait never acknowledges (70_reset_and_hazards.md R463). -/
theorem pollBusack_inWait {s : State} (h : inWait s = true) : (pollBusack s).1 = false := by
  unfold pollBusack
  simp [h]

/-- A cycle whose lines have settled samples as its own flags, and nothing changes. -/
theorem sampleCtrl_settled {s : State} {c : Presented} (h : s.world.present = some c)
    (hs : c.settle = []) : sampleCtrl s = (sixFlags c.flags, s) := by
  simp [sampleCtrl, h, hs]

/-- The first sample of a valid combination is the cycle's own, and the lines have settled. -/
theorem sampleCtrl_settles {s : State} {c : Presented} {f : CtrlFlags} {fs : List CtrlFlags}
    (h : s.world.present = some c) (hs : c.settle = f :: fs) (hv : validSettled (sixFlags f) = true) :
    sampleCtrl s = (sixFlags c.flags,
      s.withWorld { s.world with present := some { c with settle := [] } }) := by
  simp [sampleCtrl, h, hs, hv]

/-- A sample of no valid combination is taken as it is. -/
theorem sampleCtrl_unsettled {s : State} {c : Presented} {f : CtrlFlags} {fs : List CtrlFlags}
    (h : s.world.present = some c) (hs : c.settle = f :: fs) (hv : validSettled (sixFlags f) = false) :
    sampleCtrl s = (sixFlags f,
      s.withWorld { s.world with present := some { c with settle := fs } }) := by
  simp [sampleCtrl, h, hs, hv]

end Sys2Proof.Machine
end

