-- ==== Sys2Proof/Laws/Memory.lean ====
section
/-! SUPPORT. The laws of memory: a read after a write, and that every memory operation keeps the canonical
form `Memory.wf`. -/

namespace Sys2Proof.Machine

theorem Memory.wfFrom_mono {n n' : Nat} (h : n' ≤ n) {m : Memory} (hm : Memory.wfFrom n m = true) :
    Memory.wfFrom n' m = true := by
  cases m with
  | nil => rfl
  | cons c m =>
    obtain ⟨k, b⟩ := c
    simp only [Memory.wfFrom, Bool.and_eq_true, decide_eq_true_eq] at hm ⊢
    exact ⟨⟨⟨by omega, hm.1.1.2⟩, hm.1.2⟩, hm.2⟩

/-- Writing one byte keeps the canonical form. -/
theorem Memory.put_wfFrom {n : Nat} {m : Memory} {k : Nat} {b : Byte} (hm : Memory.wfFrom n m = true)
    (hn : n ≤ k) (hk : k < 65536) : Memory.wfFrom n (Memory.put m k b) = true := by
  induction m generalizing n with
  | nil => by_cases h : b = Config.unlistedByte <;> simp [Memory.put, Memory.wfFrom, h, hn, hk]
  | cons c m ih =>
    obtain ⟨j, c⟩ := c
    simp only [Memory.put]
    simp [Memory.wfFrom] at hm
    obtain ⟨⟨⟨h1, h2⟩, h3⟩, h4⟩ := hm
    by_cases hlt : k < j
    · by_cases h : b = Config.unlistedByte
      · simp [hlt, h, Memory.wfFrom, h1, h2, h3, h4]
      · simp [hlt, h, Memory.wfFrom, hn, hk, h2, h3, h4]
    · by_cases heq : k = j
      · subst heq
        by_cases h : b = Config.unlistedByte
        · simp [h]; exact Memory.wfFrom_mono (by omega) h4
        · simp [h, Memory.wfFrom, h1, h2, h4]
      · have := ih h4 (by omega)
        simp [hlt, heq, Memory.wfFrom, h1, h2, h3, this]

/-- Every write keeps the canonical form. -/
theorem Memory.write_wf {m : Memory} (hm : Memory.wf m = true) (a : Addr) (b : Byte) :
    Memory.wf (Memory.write m a b) = true :=
  Memory.put_wfFrom hm (Nat.zero_le _) a.isLt

/-- Writing a list of bytes keeps the canonical form. -/
theorem writeAll_wf {ws : List (Addr × Byte)} {m : Memory} (hm : Memory.wf m = true) :
    Memory.wf (ws.foldl (fun m w => Memory.write m w.1 w.2) m) = true := by
  induction ws generalizing m with
  | nil => exact hm
  | cons w ws ih => exact ih (Memory.write_wf hm w.1 w.2)

/-- A key below the form's least key is unlisted. -/
theorem Memory.read_below {n : Nat} {m : Memory} (hm : Memory.wfFrom n m = true) {a : Addr}
    (ha : a.toNat < n) : Memory.read m a = Config.unlistedByte := by
  induction m generalizing n with
  | nil => rfl
  | cons c m ih =>
    obtain ⟨j, c⟩ := c
    simp [Memory.wfFrom] at hm
    have hj : j ≠ a.toNat := by omega
    simp only [Memory.read, if_neg hj]
    exact ih hm.2 (by omega)

theorem Memory.read_put_other {m : Memory} {k : Nat} {b : Byte} {a : Addr} (h : a.toNat ≠ k) :
    Memory.read (Memory.put m k b) a = Memory.read m a := by
  induction m with
  | nil =>
    by_cases hb : b = Config.unlistedByte <;> simp [Memory.put, Memory.read, hb, Ne.symm h]
  | cons c m ih =>
    obtain ⟨j, c⟩ := c
    simp only [Memory.put]
    split
    · split
      · rfl
      · simp [Memory.read, Ne.symm h]
    · split
      · rename_i hlt heq
        subst heq
        split <;> simp [Memory.read, Ne.symm h]
      · simp only [Memory.read, ih]

theorem Memory.read_put_self {n : Nat} {m : Memory} (hm : Memory.wfFrom n m = true) (a : Addr)
    (b : Byte) : Memory.read (Memory.put m a.toNat b) a = b := by
  induction m generalizing n with
  | nil => by_cases hb : b = Config.unlistedByte <;> simp [Memory.put, Memory.read, hb]
  | cons c m ih =>
    obtain ⟨j, c⟩ := c
    simp [Memory.wfFrom] at hm
    simp only [Memory.put]
    split
    · rename_i hlt
      split
      · rename_i hb
        rw [hb]
        have hj : j ≠ a.toNat := by omega
        simp only [Memory.read, if_neg hj]
        exact Memory.read_below hm.2 (by omega)
      · simp [Memory.read]
    · split
      · rename_i heq
        split
        · rename_i hb
          rw [hb]
          exact Memory.read_below hm.2 (by omega)
        · simp [Memory.read, heq]
      · rename_i hne
        have hj : j ≠ a.toNat := fun h => hne h.symm
        simp only [Memory.read, if_neg hj]
        exact ih hm.2

/-- A read after a write to the same address gives the byte written. -/
theorem Memory.read_write_self {m : Memory} (hm : Memory.wf m = true) (a : Addr) (b : Byte) :
    Memory.read (Memory.write m a b) a = b :=
  Memory.read_put_self hm a b

/-- A write leaves every other address alone. -/
@[simp] theorem Memory.read_write_other {m : Memory} {a a' : Addr} {b : Byte} (h : a' ≠ a) :
    Memory.read (Memory.write m a b) a' = Memory.read m a' :=
  Memory.read_put_other (fun hn => h (BitVec.eq_of_toNat_eq hn))

theorem memWrite_wf {s : State} (hm : Memory.wf s.world.mem = true) (a : Addr) (b : Byte) :
    Memory.wf (memWrite a b s).world.mem = true :=
  Memory.write_wf hm a b

theorem memRead_memWrite_self {s : State} (hm : Memory.wf s.world.mem = true) (a : Addr) (b : Byte) :
    memRead a (memWrite a b s) = b :=
  Memory.read_write_self hm a b

theorem memRead_memWrite_other {s : State} {a a' : Addr} {b : Byte} (h : a' ≠ a) :
    memRead a' (memWrite a b s) = memRead a' s :=
  Memory.read_write_other h

/-- Reset memory has the canonical form. -/
theorem startOfDay_mem_wf (p : Params) : Memory.wf (State.startOfDay p).world.mem = true := rfl

end Sys2Proof.Machine
end

