-- ==== Sys2Proof/Laws/Sockets.lean ====
section
/-! SUPPORT. The socket table: reading a slot after writing one, and that `recompute` establishes the
aggregates (40_socket_table.md R146). -/

namespace Sys2Proof.Machine

/-- A slot is read from the table alone. -/
theorem sockAt_congr {s t : State} (h : t.eng.sock = s.eng.sock) (j : Nat) : sockAt t j = sockAt s j := by
  simp only [sockAt, h]

@[simp] theorem sockAt_withTrk (s : State) (k : Tracker) (j : Nat) : sockAt (s.withTrk k) j = sockAt s j := rfl
@[simp] theorem sockAt_withBp (s : State) (b : BpTables) (j : Nat) : sockAt (s.withBp b) j = sockAt s j := rfl
@[simp] theorem sockAt_withPort (s : State) (p : Port) (j : Nat) : sockAt (s.withPort p) j = sockAt s j := rfl
@[simp] theorem sockAt_withWorld (s : State) (w : World) (j : Nat) : sockAt (s.withWorld w) j = sockAt s j := rfl
@[simp] theorem sockAt_answer (s : State) (r : Ret) (j : Nat) : sockAt (s.answer r) j = sockAt s j := rfl
@[simp] theorem sockAt_logCall (s : State) (c : CallRecord) (j : Nat) : sockAt (logCall c s) j = sockAt s j := rfl
@[simp] theorem sockAt_recompute (s : State) (j : Nat) : sockAt (recompute s) j = sockAt s j := rfl

theorem sockAt_setSock_self {s : State} {h : Nat} (hl : h < s.eng.sock.length) (k : Socket) :
    sockAt (setSock h k s) h = k := by
  simp [sockAt, setSock, State.withEng, hl]

theorem sockAt_setSock_other {s : State} {h j : Nat} (hj : j ≠ h) (k : Socket) :
    sockAt (setSock h k s) j = sockAt s j := by
  simp [sockAt, setSock, State.withEng, Ne.symm hj]

@[simp] theorem setSock_length (s : State) (h : Nat) (k : Socket) :
    (setSock h k s).eng.sock.length = s.eng.sock.length := by
  simp [setSock, State.withEng]

/-- A slot that is in no table reads as an unregistered one. -/
theorem sockAt_outside {s : State} {h : Nat} (hl : s.eng.sock.length ≤ h) : sockAt s h = Socket.blank := by
  simp [sockAt, hl]

/-- "Some registered socket has the flag", for a flag that an unregistered slot has not. -/
theorem any_registered {p : Socket → Bool} (hp : p Socket.blank = false) (l : List Socket) (n : Nat) :
    (l.take n).any p = true ↔ ∃ h, h < n ∧ p (l.getD h Socket.blank) = true := by
  induction l generalizing n with
  | nil => simp [hp]
  | cons k l ih =>
    cases n with
    | zero => simp
    | succ n =>
      simp only [List.take_succ_cons, List.any_cons, Bool.or_eq_true, ih]
      constructor
      · rintro (h | ⟨h, hn, hh⟩)
        · exact ⟨0, by omega, by simpa using h⟩
        · exact ⟨h + 1, by omega, by simpa using hh⟩
      · rintro ⟨h, hn, hh⟩
        cases h with
        | zero => exact .inl (by simpa using hh)
        | succ h => exact .inr ⟨h, by omega, by simpa using hh⟩

theorem holdWanted_iff (s : State) :
    s.eng.holdWanted = true ↔ ∃ h, h < s.eng.numSockets ∧ (sockAt s h).hold = true :=
  any_registered rfl _ _

theorem memWanted_iff (s : State) :
    s.eng.memWanted = true ↔
      (∃ h, h < s.eng.numSockets ∧ (sockAt s h).enabled = true ∧ (sockAt s h).waitOnMemory = true) ∧
      s.eng.mastered = false := by
  have h := any_registered (p := fun k => k.enabled && k.waitOnMemory) rfl s.eng.sock s.eng.numSockets
  simp only [Bool.and_eq_true] at h
  simp only [Engine.memWanted, Engine.registered, Bool.and_eq_true, Bool.not_eq_true', h]
  rfl

theorem ioWanted_iff (s : State) :
    s.eng.ioWanted = true ↔
      (∃ h, h < s.eng.numSockets ∧ (sockAt s h).enabled = true ∧ (sockAt s h).waitOnIo = true) ∧
      s.eng.mastered = false := by
  have h := any_registered (p := fun k => k.enabled && k.waitOnIo) rfl s.eng.sock s.eng.numSockets
  simp only [Bool.and_eq_true] at h
  simp only [Engine.ioWanted, Engine.registered, Bool.and_eq_true, Bool.not_eq_true', h]
  rfl

/-- `recompute_aggregates()` establishes the aggregates. -/
theorem recompute_aggregatesOk (s : State) : AggregatesOk (recompute s) :=
  ⟨holdWanted_iff s, memWanted_iff s, ioWanted_iff s⟩

/-- The aggregates are read from the engine alone. -/
theorem aggregatesOk_congr {s t : State} (h : t.eng = s.eng) : AggregatesOk s → AggregatesOk t := by
  simp only [AggregatesOk, sockAt, h]
  exact id

/-- The aggregates of a state whose sockets keep their flags. -/
theorem aggregatesOk_of_flags {s t : State} (hn : t.eng.numSockets = s.eng.numSockets)
    (hf : ∀ h, (sockAt t h).enabled = (sockAt s h).enabled ∧ (sockAt t h).hold = (sockAt s h).hold ∧
      (sockAt t h).waitOnMemory = (sockAt s h).waitOnMemory ∧
      (sockAt t h).waitOnIo = (sockAt s h).waitOnIo)
    (hm : t.eng.mastered = s.eng.mastered) (hh : t.eng.wait.hold = s.eng.wait.hold)
    (hg : t.eng.waitGenMem = s.eng.waitGenMem) (hi : t.eng.waitGenIo = s.eng.waitGenIo)
    (ha : AggregatesOk s) : AggregatesOk t := by
  simpa only [AggregatesOk, hn, hm, hh, hg, hi, fun h => (hf h).1, fun h => (hf h).2.1,
    fun h => (hf h).2.2.1, fun h => (hf h).2.2.2] using ha

/-! ### The commands on one socket's flags -/

theorem changeSocket_ok {s : State} {h : Nat} (hh : h < s.eng.numSockets) (f : Socket → Socket) :
    changeSocket h f s = (okNone, recompute (setSock h (f (sockAt s h)) s)) := by
  simp [changeSocket, handleOk, hh]

theorem changeSocket_bad {s : State} {h : Nat} (hh : ¬ h < s.eng.numSockets) (f : Socket → Socket) :
    changeSocket h f s = (invalid, s) := by
  simp [changeSocket, handleOk, hh]

/-- What a write of one registered socket's flags does. -/
theorem changeSocket_becomes {s : State} {h : Nat} (hh : h < s.eng.numSockets)
    (hl : h < s.eng.sock.length) (f : Socket → Socket) :
    SocketBecomes h (f (sockAt s h)) s (changeSocket h f s).2 := by
  rw [changeSocket_ok hh]
  refine ⟨rfl, setSock_length s h _, sockAt_setSock_self hl _, fun j hj => ?_, recompute_aggregatesOk _⟩
  exact sockAt_setSock_other hj _

/-- A write of flags changes nothing but the engine. -/
theorem changeSocket_frame (h : Nat) (f : Socket → Socket) (s : State) :
    (changeSocket h f s).2 = s.withEng (changeSocket h f s).2.eng := by
  by_cases hh : h < s.eng.numSockets
  · rw [changeSocket_ok hh]; rfl
  · rw [changeSocket_bad hh]; rfl

end Sys2Proof.Machine
end

