-- ==== Sys2Proof/Laws/Bus.lean ====
section
/-! SUPPORT. What the poll loop, mastership and block transfers can do (43_mastership_block_io.md R250 to
R256). -/

namespace Sys2Proof.Machine

/-! ### The poll loop -/

/-- Two states that differ in time and the environment's draws only. -/
def OnlyTime (s t : State) : Prop :=
  t.cfg = s.cfg ∧ t.eng = s.eng ∧ t.trk = s.trk ∧ t.bp = s.bp ∧ t.port = s.port ∧
    SameWorldButTime s t ∧ s.world.clock ≤ t.world.clock

theorem OnlyTime.refl (s : State) : OnlyTime s s := ⟨rfl, rfl, rfl, rfl, rfl, rfl, le_refl _⟩

theorem OnlyTime.trans {s t u : State} (h : OnlyTime s t) (g : OnlyTime t u) : OnlyTime s u := by
  obtain ⟨h1, h2, h3, h4, h5, h6, h7⟩ := h
  obtain ⟨g1, g2, g3, g4, g5, g6, g7⟩ := g
  refine ⟨g1.trans h1, g2.trans h2, g3.trans h3, g4.trans h4, g5.trans h5, ?_, le_trans h7 g7⟩
  simp only [SameWorldButTime] at *
  rw [← h6, ← g6]

theorem now_onlyTime (s : State) : OnlyTime s (now s).2 := by
  obtain ⟨d, ds, -, -, h⟩ | ⟨-, d, -, h⟩ := now_cases s <;>
    (rw [h]; exact ⟨rfl, rfl, rfl, rfl, rfl, rfl, by simp⟩)

theorem sampleBusack_onlyTime (s : State) : OnlyTime s (sampleBusack s).2 := by
  unfold sampleBusack
  split <;> exact ⟨rfl, rfl, rfl, rfl, rfl, rfl, le_refl _⟩

/-- The loop changes time and the environment's draws only. -/
theorem busackLoop_onlyTime (fuel t0 : Nat) (s : State) : OnlyTime s (busackLoop fuel t0 s).2 := by
  induction fuel generalizing s with
  | zero => exact OnlyTime.refl s
  | succ fuel ih =>
    have h1 : OnlyTime s (pollBusack s).2 := sampleBusack_onlyTime s
    unfold busackLoop
    split
    · rename_i s1 heq
      rw [heq] at h1
      exact h1
    · rename_i s1 heq
      rw [heq] at h1
      have h2 := h1.trans (now_onlyTime s1)
      split
      rename_i t s2 hn
      rw [hn] at h2
      split
      · exact h2
      · exact h2.trans (ih s2)

/-- Waiting for BUSACK asserts BUSRQ, and else changes time and draws only. -/
theorem awaitBusack_onlyTime (s : State) : OnlyTime (assertLine .busRequest s) (awaitBusack s).2 := by
  have h1 := now_onlyTime (assertLine .busRequest s)
  exact h1.trans (busackLoop_onlyTime _ (now (assertLine .busRequest s)).1 _)

/-! ### Mastership -/

@[simp] theorem driveBusLines_cfg (b : Bool) (s : State) : (driveBusLines b s).cfg = s.cfg := rfl
@[simp] theorem driveBusLines_trk (b : Bool) (s : State) : (driveBusLines b s).trk = s.trk := rfl
@[simp] theorem driveBusLines_bp (b : Bool) (s : State) : (driveBusLines b s).bp = s.bp := rfl
@[simp] theorem driveBusLines_port (b : Bool) (s : State) : (driveBusLines b s).port = s.port := rfl
@[simp] theorem driveBusLines_world (b : Bool) (s : State) : (driveBusLines b s).world = s.world := rfl

/-- Taking the bus changes the engine only: it masters and drives the bus, and the aggregates follow. -/
theorem takeMastership_frame (s : State) :
    takeMastership s = s.withEng { s.eng with
      mastered := true, busDriven := true
      wait := { s.eng.wait with hold := s.eng.holdWanted }
      waitGenMem := false, waitGenIo := false } := by
  simp [takeMastership, driveBusLines, setMastered, recompute, State.withEng, Engine.memWanted,
    Engine.ioWanted, Engine.holdWanted, Engine.registered]

/-- Giving the bus back changes the engine only. -/
theorem releaseMastership_frame (s : State) :
    releaseMastership s = s.withEng { s.eng with
      mastered := false, busDriven := false, lineBusrq := false, skipRefreshPrimed := true
      wait := { s.eng.wait with hold := s.eng.holdWanted }
      waitGenMem := ({ s.eng with mastered := false }).memWanted
      waitGenIo := ({ s.eng with mastered := false }).ioWanted } := rfl

/-- After the bus is given back, the aggregates are what the sockets ask for. -/
theorem releaseMastership_aggregatesOk (s : State) : AggregatesOk (releaseMastership s) :=
  recompute_aggregatesOk _

/-! ### Block transfers -/

/-- Reading memory changes nothing and gives its bytes (43_mastership_block_io.md R254, R255). -/
theorem readBytes_memory (addr : Addr) (k n : Nat) (s : State) :
    readBytes false addr k n s =
      ((List.range' k n).map (fun j => memRead (transferAddr addr j) s), s) := by
  induction n generalizing k with
  | zero => rfl
  | succ n ih => simp [readBytes, ih, List.range'_succ]

/-- A transfer to memory changes memory only. -/
theorem writeBytes_memory_frame (addr : Addr) (k : Nat) (bs : List Byte) (s : State) :
    writeBytes false addr k bs s =
      s.withWorld { s.world with mem := (writeBytes false addr k bs s).world.mem } := by
  induction bs generalizing k s with
  | nil => rfl
  | cons b bs ih =>
    simp only [writeBytes]
    rw [ih]
    rfl

/-- A transfer to memory keeps the canonical form. -/
theorem writeBytes_memory_wf {s : State} (hm : Memory.wf s.world.mem = true) (addr : Addr) (k : Nat)
    (bs : List Byte) : Memory.wf (writeBytes false addr k bs s).world.mem = true := by
  induction bs generalizing k s with
  | nil => exact hm
  | cons b bs ih => exact ih (memWrite_wf hm _ b) (k + 1)

/-- A transfer to memory leaves every address outside it alone. -/
theorem writeBytes_memory_other {s : State} {addr a : Addr} {k : Nat} {bs : List Byte}
    (ha : ∀ j, k ≤ j → j < k + bs.length → a ≠ transferAddr addr j) :
    memRead a (writeBytes false addr k bs s) = memRead a s := by
  induction bs generalizing k s with
  | nil => rfl
  | cons b bs ih =>
    simp only [writeBytes]
    rw [ih (fun j h1 h2 => ha j (by omega) (by simp only [List.length_cons]; omega))]
    exact memRead_memWrite_other (ha k (le_refl _) (by simp))

/-- The addresses of a transfer of at most 65536 bytes are all different. -/
theorem transferAddr_ne {addr : Addr} {j k : Nat} (h : j < k) (hk : k < j + 65536) :
    transferAddr addr j ≠ transferAddr addr k := by
  intro he
  have h1 := congrArg BitVec.toNat he
  simp only [transferAddr, BitVec.toNat_add, BitVec.toNat_ofNat] at h1
  omega

/-- A transfer to memory leaves each of its bytes at its address (43_mastership_block_io.md R256). -/
theorem writeBytes_memory_self {s : State} (hm : Memory.wf s.world.mem = true) (addr : Addr) (k : Nat)
    {bs : List Byte} (hl : bs.length ≤ 65536) {j : Nat} {b : Byte} (hj : bs[j]? = some b) :
    memRead (transferAddr addr (k + j)) (writeBytes false addr k bs s) = b := by
  induction bs generalizing k j s with
  | nil => simp at hj
  | cons c cs ih =>
    simp only [List.length_cons] at hl
    simp only [writeBytes]
    cases j with
    | zero =>
      simp only [List.getElem?_cons_zero, Option.some.injEq] at hj
      subst hj
      rw [writeBytes_memory_other (fun j h1 h2 => transferAddr_ne (by omega) (by omega))]
      exact memRead_memWrite_self hm _ _
    | succ j =>
      have := ih (memWrite_wf hm (transferAddr addr k) c) (k + 1) (by omega)
        (List.getElem?_cons_succ ▸ hj)
      rwa [show k + 1 + j = k + (j + 1) by omega] at this

end Sys2Proof.Machine
end

