-- ==== Sys2Proof/Laws/Callbacks.lean ====
section
/-! SUPPORT. The callback contract (40_socket_table.md R147, 41_wait_service.md R176, 42_bus_actions.md
R215): one induction for each loop over commands or sockets, so that a property of states is proved of a
loop by proving it of one turn. -/

namespace Sys2Proof.Machine

/-- All that a callback's command can do to the state. -/
theorem callbackCommand_keeps {P : State → Prop} {m : Bool} {s : State} (hs : P s)
    (hEnable : ∀ h e, P (enableSocket h e s).2) (hWait : ∀ h w i, P (setWaitOn h w i s).2)
    (hHold : ∀ h d, P (setHold h d s).2) (hAction : ∀ h a r, P (requestAction h a r s).2)
    (hBus : ∀ h r, P (requestBus h r s).2)
    (hBp : ∀ b : BpTables, b.fast.length = s.bp.fast.length → b.slow.length = s.bp.slow.length →
      P (s.withBp b))
    (hRead : m = true → ∀ addr len io auto, P (blockRead addr len io auto s).2)
    (hWrite : m = true → ∀ addr buf io auto, P (blockWrite addr buf io auto s).2)
    (c : CbCommand) : P (callbackCommand m c s).2 := by
  have hw : ∀ t i e, P (bpWrite t i e s) := by
    intro t i e
    rw [bpWrite_frame]
    exact hBp _ (by cases t <;> simp [bpWrite]) (by cases t <;> simp [bpWrite])
  unfold callbackCommand
  split
  · exact hs
  · split
    · exact hEnable _ _
    · exact hWait _ _ _
    · exact hHold _ _
    · exact hAction _ _ _
    · exact hBus _ _
    · unfold bpSet
      split
      · exact hw _ _ _
      · exact hs
    · unfold bpClear
      split
      · exact hw _ _ _
      · exact hs
    · exact hBp _ rfl rfl
    · exact hs
    · split
      · exact hRead ‹_› _ _ _ _
      · exact hs
    · split
      · exact hWrite ‹_› _ _ _ _
      · exact hs
    · exact hs

/-- What one command and its record keep, a callback's commands keep. -/
theorem runCallbackCommands_keeps {P : State → Prop} {h : Nat} {m : Bool}
    (hCmd : ∀ c s, P s → P (callbackCommand m c s).2)
    (hLog : ∀ w r s, P s → P (logCall (.command h w r) s)) (cs : List CbCommand) {s : State} (hs : P s) :
    P (runCallbackCommands h m cs s) := by
  induction cs generalizing s with
  | nil => exact hs
  | cons c cs ih => exact ih (hLog _ _ _ (hCmd c s hs))

/-- What the record of a call, the tracker's callback, the taking of a reply and a collaborator's commands
keep, the call of one socket's `on_wait_cycle` keeps. -/
theorem callWait_keeps {P : State → Prop} {h : Nat} {addr : Addr} {data : Byte} {f : CtrlFlags}
    (hLog : ∀ s, P s → P (logCall (.waitCycle h addr data f) s))
    (hTrk : ∀ s, P s → (sockAt s h).onWaitCycle = .tracker → P (trackerOnWaitCycle addr data f s).2)
    (hNext : ∀ s, P s → (sockAt s h).onWaitCycle ≠ .tracker → P (nextWaitReply h s).2)
    (hRun : ∀ cs s, P s → P (runCallbackCommands h false cs s)) {s : State} (hs : P s) :
    P (callWait h addr data f s).2 := by
  have h0 := hLog s hs
  unfold callWait
  simp only
  split
  · exact hTrk _ h0 ‹_›
  · exact hRun _ _ (hNext _ h0 ‹_›)

/-- What one call keeps, a fan-out keeps. -/
theorem fanOut_keeps {P : State → Prop} {addr : Addr} {data : Byte} {f : CtrlFlags}
    (hCall : ∀ h s, P s → (sockAt s h).enabled = true → P (callWait h addr data f s).2)
    (hs : List Nat) {s : State} (h0 : P s) : P (fanOut addr data f hs s).2 := by
  induction hs generalizing s with
  | nil => exact h0
  | cons h hs ih =>
    simp only [fanOut]
    split
    · exact ih (hCall h s h0 ‹_›)
    · exact ih h0

/-- A socket that is enabled when its turn comes is called (41_wait_service.md R176). -/
theorem fanOut_called {addr : Addr} {data : Byte} {f : CtrlFlags} {h : Nat} {s : State}
    (he : (sockAt s h).enabled = true) (hs : List Nat) :
    fanOut addr data f (h :: hs) s =
      ((callWait h addr data f s).1 :: (fanOut addr data f hs (callWait h addr data f s).2).1,
        (fanOut addr data f hs (callWait h addr data f s).2).2) := by
  simp [fanOut, he]

/-- A socket that is not enabled when its turn comes is passed over (41_wait_service.md R176). -/
theorem fanOut_passed {addr : Addr} {data : Byte} {f : CtrlFlags} {h : Nat} {s : State}
    (he : (sockAt s h).enabled = false) (hs : List Nat) :
    fanOut addr data f (h :: hs) s =
      (.notDecoded :: (fanOut addr data f hs s).1, (fanOut addr data f hs s).2) := by
  simp [fanOut, he]

/-- A fan-out answers one decision for each handle. -/
@[simp] theorem fanOut_length (addr : Addr) (data : Byte) (f : CtrlFlags) (hs : List Nat) (s : State) :
    (fanOut addr data f hs s).1.length = hs.length := by
  induction hs generalizing s with
  | nil => rfl
  | cons h hs ih => simp [fanOut, ih]

/-- As `callWait_keeps`, for `on_bus_action_complete`. -/
theorem callDone_keeps {P : State → Prop} {a : BusAction} {reason : Byte} {o : ActOutcome} {h : Nat}
    (hLog : ∀ s, P s → P (logCall (.complete h a reason o) s))
    (hTrk : ∀ s, P s → (sockAt s h).onDone = .tracker → P (trackerOnComplete a reason o s))
    (hNext : ∀ s, P s → (sockAt s h).onDone ≠ .tracker → P (nextDoneReply h s).2)
    (hRun : ∀ cs s, P s →
      P (runCallbackCommands h (decide (a = .busRequest ∧ o = .ok)) cs s)) {s : State} (hs : P s) :
    P (callDone a reason o h s) := by
  have h0 := hLog s hs
  unfold callDone
  simp only
  split
  · exact hTrk _ h0 ‹_›
  · exact hRun _ _ (hNext _ h0 ‹_›)

/-- What one completion call keeps, the calls of all sockets keep. -/
theorem completeAll_keeps {P : State → Prop} {a : BusAction} {reason : Byte} {o : ActOutcome}
    (hCall : ∀ h s, P s → P (callDone a reason o h s)) (hs : List Nat) {s : State} (h0 : P s) :
    P (completeAll a reason o hs s) := by
  induction hs generalizing s with
  | nil => exact h0
  | cons h hs ih => exact ih (hCall h s h0)

/-- What the taking of a reply changes: one script, or the count of free values. -/
theorem nextWaitReply_cases (h : Nat) (s : State) :
    (∃ r rs, (sockAt s h).onWaitCycle = .script (r :: rs) ∧
      nextWaitReply h s = (r, setSock h { sockAt s h with onWaitCycle := .script rs } s)) ∨
    (∃ r, nextWaitReply h s = (r, s.withWorld { s.world with draws := s.world.draws + 1 })) ∨
    ((sockAt s h).onWaitCycle ∈ [WaitCallback.none, .tracker] ∧ nextWaitReply h s = ({}, s)) := by
  unfold nextWaitReply
  split
  · exact .inl ⟨_, _, ‹_›, rfl⟩
  · exact .inr (.inl ⟨_, rfl⟩)
  · exact .inr (.inr ⟨by simp [*], rfl⟩)
  · exact .inr (.inr ⟨by simp [*], rfl⟩)

/-- As `nextWaitReply_cases`, for completion callbacks. -/
theorem nextDoneReply_cases (h : Nat) (s : State) :
    (∃ r rs, (sockAt s h).onDone = .script (r :: rs) ∧
      nextDoneReply h s = (r, setSock h { sockAt s h with onDone := .script rs } s)) ∨
    (∃ r, nextDoneReply h s = (r, s.withWorld { s.world with draws := s.world.draws + 1 })) ∨
    ((sockAt s h).onDone ∈ [DoneCallback.none, .tracker] ∧ nextDoneReply h s = ([], s)) := by
  unfold nextDoneReply
  split
  · exact .inl ⟨_, _, ‹_›, rfl⟩
  · exact .inr (.inl ⟨_, rfl⟩)
  · exact .inr (.inr ⟨by simp [*], rfl⟩)
  · exact .inr (.inr ⟨by simp [*], rfl⟩)

end Sys2Proof.Machine
end

