-- ==== Sys2Proof/Laws/Injection.lean ====
section
/-! SUPPORT. The injected programs (46_injection.md R360 to R370): their lengths, and that feeding a Z80 one
list of bytes and then another is feeding it both. -/

namespace Sys2Proof.Machine

@[simp] theorem getTemplate_length : getTemplate.length = 52 := rfl

@[simp] theorem setTemplate_length (r : Z80Registers) : (setTemplate r).length = 51 := rfl

/-! ### Runs of prefixes (70_reset_and_hazards.md R465) -/

@[simp] theorem afterPrefixRun_nil : afterPrefixRun [] = [] := rfl

@[simp] theorem afterPrefixRun_singleton (b : Byte) : afterPrefixRun [b] = [b] := rfl

/-- A run is dropped only where an index prefix follows an index prefix. -/
theorem afterPrefixRun_cons_cons (b c : Byte) (bs : List Byte) :
    afterPrefixRun (b :: c :: bs) =
      if indexPrefix b && indexPrefix c then afterPrefixRun (c :: bs) else b :: c :: bs := rfl

/-- Bytes that begin a row of 46_injection.md R361 begin with no run of prefixes. -/
theorem afterPrefixRun_of_decodeZ80 {bs rest : List Byte} {i : Instr} (h : decodeZ80 bs = .ok (i, rest)) :
    afterPrefixRun bs = bs := by
  cases bs with
  | nil => rfl
  | cons b bs =>
    cases bs with
    | nil => rfl
    | cons c bs =>
      rw [afterPrefixRun_cons_cons]
      split
      · rename_i hp
        simp only [indexPrefix, Bool.and_eq_true, Bool.or_eq_true, beq_iff_eq] at hp
        obtain ⟨rfl | rfl, rfl | rfl⟩ := hp <;> simp [decodeZ80, decodeDd, decodeFd] at h
      · rfl

/-! ### Feeding -/

/-- Feeding two lists one after the other. -/
theorem z80Feed_append (free : Byte) (xs ys : List Byte) (z : Z80) :
    z80Feed free (xs ++ ys) z =
      ((z80Feed free xs z).1 ++ (z80Feed free ys (z80Feed free xs z).2).1,
       (z80Feed free ys (z80Feed free xs z).2).2) := by
  induction xs generalizing z with
  | nil => rfl
  | cons x xs ih => simp [z80Feed, ih]

/-- A GET in two parts: the second part continues with the captures of the first. -/
theorem getFeed_append (free : Byte) (ks ls : List Nat) (cap : List (Addr × Byte)) (z : Z80) :
    getFeed free (ks ++ ls) cap z =
      getFeed free ls (getFeed free ks cap z).1 (getFeed free ks cap z).2 := by
  induction ks generalizing cap z with
  | nil => rfl
  | cons k ks ih => simp [getFeed, ih]

/-- One byte fed: the Z80 takes it, and makes the writes that follow. -/
theorem z80Feed_singleton (free b : Byte) (z : Z80) :
    z80Feed free [b] z = z80Writes free 2 (z80Retire free (z80Take b z)).2 := by
  simp [z80Feed]

end Sys2Proof.Machine
end

