-- ==== Sys2Proof/Laws/PerInstr.lean ====
section
/-! SUPPORT. What is proved of every constructor of `Instr`, one lemma each: the row's shape in
spec/opcode_table.json. -/

namespace Sys2Proof.Laws

open Sys2Proof.Machine

/-- The shape of a row: a command is one word and has no Z80 plan (30_encoding.md R104); a Z80 instruction
is bytes, as many as its row's M1 fetches and program reads, whatever the registers hold
(46_injection.md R361). -/
def TableShape.Statement (i : Instr) : Prop :=
  match planOf i with
  | none => i.isZ80 = false ∧ ∃ w, encode i = .word w
  | some p => i.isZ80 = true ∧ encode i = .bytes (z80Bytes i) ∧
      ∀ z, (z80Bytes i).length = programLength p z

namespace TableShape

theorem addSocket : Statement .addSocket := ⟨rfl, _, rfl⟩
theorem enableSocket (h : BitVec 8) (e : Bool) : Statement (.enableSocket h e) := ⟨rfl, _, rfl⟩
theorem setWaitOn (h : BitVec 8) (m : Bool) (i : Bool) : Statement (.setWaitOn h m i) := ⟨rfl, _, rfl⟩
theorem setHold (h : BitVec 8) (d : Bool) : Statement (.setHold h d) := ⟨rfl, _, rfl⟩
theorem requestAction (h : BitVec 8) (reason : Byte) (act : BitVec 2) : Statement (.requestAction h reason act) := ⟨rfl, _, rfl⟩
theorem requestBus (h : BitVec 8) (reason : Byte) : Statement (.requestBus h reason) := ⟨rfl, _, rfl⟩
theorem serviceTick : Statement .serviceTick := ⟨rfl, _, rfl⟩
theorem checkPending : Statement .checkPending := ⟨rfl, _, rfl⟩
theorem startPending : Statement .startPending := ⟨rfl, _, rfl⟩
theorem advancePending : Statement .advancePending := ⟨rfl, _, rfl⟩
theorem requestAndTake : Statement .requestAndTake := ⟨rfl, _, rfl⟩
theorem release : Statement .release := ⟨rfl, _, rfl⟩
theorem blockRead (auto : Bool) (io : Bool) (addr : Addr) : Statement (.blockRead auto io addr) := ⟨rfl, _, rfl⟩
theorem blockWrite (auto : Bool) (io : Bool) (addr : Addr) : Statement (.blockWrite auto io addr) := ⟨rfl, _, rfl⟩
theorem trkEnable (e : Bool) : Statement (.trkEnable e) := ⟨rfl, _, rfl⟩
theorem trkRequestGet : Statement .trkRequestGet := ⟨rfl, _, rfl⟩
theorem trkStartSet : Statement .trkStartSet := ⟨rfl, _, rfl⟩
theorem trkStep : Statement .trkStep := ⟨rfl, _, rfl⟩
theorem trkRun : Statement .trkRun := ⟨rfl, _, rfl⟩
theorem trkHalt : Statement .trkHalt := ⟨rfl, _, rfl⟩
theorem bpSet (t : BpTable) (idx : Nat) (pc : Addr) : Statement (.bpSet t idx pc) := ⟨rfl, _, rfl⟩
theorem bpClear (t : BpTable) (idx : Nat) : Statement (.bpClear t idx) := ⟨rfl, _, rfl⟩
theorem bpGlobalEnable (e : Bool) : Statement (.bpGlobalEnable e) := ⟨rfl, _, rfl⟩
theorem checkForBreak (flags : CtrlFlags) (addr : Addr) : Statement (.checkForBreak flags addr) := ⟨rfl, _, rfl⟩
theorem isPrefix (b : Byte) : Statement (.isPrefix b) := ⟨rfl, _, rfl⟩
theorem onWaitCycle : Statement .onWaitCycle := ⟨rfl, _, rfl⟩
theorem onBusActionComplete : Statement .onBusActionComplete := ⟨rfl, _, rfl⟩
theorem pushAf : Statement .pushAf := ⟨rfl, rfl, fun _ => rfl⟩
theorem popAf : Statement .popAf := ⟨rfl, rfl, fun _ => rfl⟩
theorem pushIx : Statement .pushIx := ⟨rfl, rfl, fun _ => rfl⟩
theorem pushIy : Statement .pushIy := ⟨rfl, rfl, fun _ => rfl⟩
theorem ldAR : Statement .ldAR := ⟨rfl, rfl, fun _ => rfl⟩
theorem ldAI : Statement .ldAI := ⟨rfl, rfl, fun _ => rfl⟩
theorem ldRA : Statement .ldRA := ⟨rfl, rfl, fun _ => rfl⟩
theorem ldIA : Statement .ldIA := ⟨rfl, rfl, fun _ => rfl⟩
theorem ldMemA (nn : Addr) : Statement (.ldMemA nn) := ⟨rfl, rfl, fun _ => rfl⟩
theorem ldMemHl (nn : Addr) : Statement (.ldMemHl nn) := ⟨rfl, rfl, fun _ => rfl⟩
theorem ldMemDe (nn : Addr) : Statement (.ldMemDe nn) := ⟨rfl, rfl, fun _ => rfl⟩
theorem ldMemBc (nn : Addr) : Statement (.ldMemBc nn) := ⟨rfl, rfl, fun _ => rfl⟩
theorem ldAN (n : Byte) : Statement (.ldAN n) := ⟨rfl, rfl, fun _ => rfl⟩
theorem ldBcNn (nn : BitVec 16) : Statement (.ldBcNn nn) := ⟨rfl, rfl, fun _ => rfl⟩
theorem ldDeNn (nn : BitVec 16) : Statement (.ldDeNn nn) := ⟨rfl, rfl, fun _ => rfl⟩
theorem ldHlNn (nn : BitVec 16) : Statement (.ldHlNn nn) := ⟨rfl, rfl, fun _ => rfl⟩
theorem ldSpNn (nn : BitVec 16) : Statement (.ldSpNn nn) := ⟨rfl, rfl, fun _ => rfl⟩
theorem ldIxNn (nn : BitVec 16) : Statement (.ldIxNn nn) := ⟨rfl, rfl, fun _ => rfl⟩
theorem ldIyNn (nn : BitVec 16) : Statement (.ldIyNn nn) := ⟨rfl, rfl, fun _ => rfl⟩
theorem exx : Statement .exx := ⟨rfl, rfl, fun _ => rfl⟩
theorem exAfAf : Statement .exAfAf := ⟨rfl, rfl, fun _ => rfl⟩
theorem im0 : Statement .im0 := ⟨rfl, rfl, fun _ => rfl⟩
theorem im1 : Statement .im1 := ⟨rfl, rfl, fun _ => rfl⟩
theorem im2 : Statement .im2 := ⟨rfl, rfl, fun _ => rfl⟩
theorem ei : Statement .ei := ⟨rfl, rfl, fun _ => rfl⟩
theorem di : Statement .di := ⟨rfl, rfl, fun _ => rfl⟩
theorem jrD (d : Byte) : Statement (.jrD d) := ⟨rfl, rfl, fun _ => rfl⟩
theorem jpNn (nn : Addr) : Statement (.jpNn nn) := ⟨rfl, rfl, fun _ => rfl⟩

end TableShape

end Sys2Proof.Laws
end

