-- ==== Sys2Proof/Laws/Step.lean ====
section
/-! SUPPORT. What bus cycles, the tracker and whole steps can do: frames, and one case analysis of a step,
so that a property of states is proved of `step` by proving it of the meanings. -/

namespace Sys2Proof.Machine

/-! ### Bus cycles (20_memory.md R85 to R87) -/

/-- Two states with the same block: only the world differs. -/
def SameBlock (s t : State) : Prop :=
  t.cfg = s.cfg ∧ t.eng = s.eng ∧ t.trk = s.trk ∧ t.bp = s.bp ∧ t.port = s.port

theorem SameBlock.refl (s : State) : SameBlock s s := ⟨rfl, rfl, rfl, rfl, rfl⟩

theorem SameBlock.trans {s t u : State} (h : SameBlock s t) (g : SameBlock t u) : SameBlock s u :=
  ⟨g.1.trans h.1, g.2.1.trans h.2.1, g.2.2.1.trans h.2.2.1, g.2.2.2.1.trans h.2.2.2.1,
    g.2.2.2.2.trans h.2.2.2.2⟩

theorem withWorld_sameBlock (s : State) (w : World) : SameBlock s (s.withWorld w) := ⟨rfl, rfl, rfl, rfl, rfl⟩

theorem drawByte_sameBlock (s : State) : SameBlock s (drawByte s).2 := by
  unfold drawByte; split <;> exact withWorld_sameBlock _ _

theorem drawSettle_sameBlock (s : State) : SameBlock s (drawSettle s).2 := by
  unfold drawSettle; split <;> exact withWorld_sameBlock _ _

/-- The end of one of the Z80's cycles changes the Z80 and the count of free values only. -/
theorem z80Step_cases (f : Z80 → Z80) (s : State) :
    ∃ z d, z80Step f s = s.withWorld { s.world with z80 := z, draws := d } := by
  unfold z80Step
  split
  · exact ⟨_, _, rfl⟩
  · exact ⟨_, s.world.draws, rfl⟩

theorem z80Step_sameBlock (f : Z80 → Z80) (s : State) : SameBlock s (z80Step f s) := by
  obtain ⟨z, d, h⟩ := z80Step_cases f s
  rw [h]; exact withWorld_sameBlock _ _

@[simp] theorem z80Step_mem (f : Z80 → Z80) (s : State) : (z80Step f s).world.mem = s.world.mem := by
  obtain ⟨z, d, h⟩ := z80Step_cases f s
  rw [h]; rfl

theorem received_sameBlock (driven : Option Byte) (c : Presented) (s : State) :
    SameBlock s (received driven c s).2 := by
  unfold received
  split
  · exact SameBlock.refl s
  · split
    · exact SameBlock.refl s
    · exact drawByte_sameBlock s

@[simp] theorem received_mem (driven : Option Byte) (c : Presented) (s : State) :
    (received driven c s).2.world.mem = s.world.mem := by
  unfold received
  split
  · rfl
  · split
    · rfl
    · exact drawByte_mem s

/-- A bus cycle changes the world only. -/
theorem completeCycle_sameBlock (driven : Option Byte) (c : Presented) (s : State) :
    SameBlock s (completeCycle driven c s).2 := by
  have hr := received_sameBlock driven c s
  unfold completeCycle
  split
  · simp only
    split
    · exact hr.trans (z80Step_sameBlock _ _)
    · exact hr
  · split
    · have h1 : SameBlock s (if s.trk.pageOut then s else memWrite c.addr c.data s) := by
        split
        · exact SameBlock.refl s
        · exact withWorld_sameBlock _ _
      simp only
      split
      · exact h1.trans (z80Step_sameBlock _ _)
      · exact h1
    · split
      · exact withWorld_sameBlock _ _
      · exact SameBlock.refl s

/-- What a bus cycle does to memory: a memory write that is not paged out stores its byte. -/
theorem completeCycle_mem (driven : Option Byte) (c : Presented) (s : State) :
    (completeCycle driven c s).2.world.mem =
      if isRead (sixFlags c.flags) = false ∧ isMemWrite (sixFlags c.flags) = true ∧
        s.trk.pageOut = false
      then Memory.write s.world.mem c.addr c.data else s.world.mem := by
  unfold completeCycle
  cases h1 : isRead (sixFlags c.flags)
  · cases h2 : isMemWrite (sixFlags c.flags)
    · simp only [Bool.false_eq_true, if_false, false_and, and_false]
      split <;> rfl
    · cases h3 : s.trk.pageOut
      · simp only [Bool.false_eq_true, if_false, if_true, and_self]
        split <;> simp [memWrite]
      · simp only [Bool.false_eq_true, Bool.true_eq_false, if_false, if_true, and_false]
        split <;> simp
  · simp only [Bool.true_eq_false, if_true, if_false, false_and]
    split <;> simp

/-- The release of a wait changes the world only. -/
theorem releaseWait_sameBlock (driven : Option Byte) (s : State) : SameBlock s (releaseWait driven s) := by
  unfold releaseWait
  split
  · exact SameBlock.refl s
  · rename_i c hc
    have h := (withWorld_sameBlock s { s.world with present := none }).trans
      (completeCycle_sameBlock driven c _)
    split <;> (rename_i heq; rw [heq] at h)
    · exact h.trans (withWorld_sameBlock _ _)
    · exact h

theorem startCycle_sameBlock (f : CtrlFlags) (a : Addr) (d : Byte) (b : Bool) (s : State) :
    SameBlock s (startCycle f a d b s) := by
  unfold startCycle
  split
  · exact (drawSettle_sameBlock s).trans (withWorld_sameBlock _ _)
  · exact completeCycle_sameBlock _ _ _

theorem foreignCycle_sameBlock (f : CtrlFlags) (a : Addr) (d : Byte) (s : State) :
    SameBlock s (foreignCycle f a d s) := by
  unfold foreignCycle
  split
  · exact SameBlock.refl s
  · exact startCycle_sameBlock _ _ _ _ _

theorem foreignRegs_sameBlock (r : Z80Regs) (s : State) : SameBlock s (foreignRegs r s) := by
  unfold foreignRegs
  split
  · exact SameBlock.refl s
  · exact withWorld_sameBlock _ _

theorem outsideMove_sameBlock (m : Z80Move) (s : State) : SameBlock s (outsideMove m s) := by
  cases m with
  | cycle f a d => exact foreignCycle_sameBlock f a d s
  | become r => exact foreignRegs_sameBlock r s

/-- All that one bus cycle of the Z80 can do. -/
theorem z80Cycle_cases (s : State) :
    (offBus s = true ∧ z80Cycle s = s) ∨
    (offBus s = false ∧ ∃ f a d, z80Cycle s = startCycle f a d true s) ∨
    (offBus s = false ∧ z80Cycle s = z80Step id s) ∨
    (offBus s = false ∧ ∃ m,
      z80Cycle s = outsideMove m (s.withWorld { s.world with draws := s.world.draws + 1 })) := by
  unfold z80Cycle
  split
  · exact .inl ⟨‹_›, rfl⟩
  · have ho : offBus s = false := by simpa using ‹¬ offBus s = true›
    split
    · exact .inr (.inl ⟨ho, _, _, _, rfl⟩)
    · exact .inr (.inl ⟨ho, _, _, _, rfl⟩)
    · exact .inr (.inl ⟨ho, _, _, _, rfl⟩)
    · exact .inr (.inl ⟨ho, _, _, _, rfl⟩)
    · exact .inr (.inr (.inl ⟨ho, rfl⟩))
    · exact .inr (.inr (.inr ⟨ho, _, rfl⟩))

theorem z80Cycle_sameBlock (s : State) : SameBlock s (z80Cycle s) := by
  obtain ⟨-, h⟩ | ⟨-, f, a, d, h⟩ | ⟨-, h⟩ | ⟨-, m, h⟩ := z80Cycle_cases s <;> rw [h]
  · exact SameBlock.refl _
  · exact startCycle_sameBlock _ _ _ _ _
  · exact z80Step_sameBlock _ _
  · exact (withWorld_sameBlock _ _).trans (outsideMove_sameBlock _ _)

theorem runPlan_sameBlock (p : Plan) (s : State) : SameBlock s (runPlan p s) := withWorld_sameBlock _ _

/-- The meaning of a Z80 instruction is its row's plan. -/
theorem exec_of_planOf {i : Instr} {p : Plan} (h : planOf i = some p) (s : State) :
    exec i s = z80Exec p s := by
  cases i <;> cases h <;> rfl

/-- No Z80 instruction changes the block: the engine, the tracker, the breakpoints and the port. -/
theorem exec_z80_sameBlock {i : Instr} (hi : i.isZ80 = true) {s t : State} (h : exec i s = .next t) :
    SameBlock s t := by
  have hp : ∃ p, planOf i = some p := by cases i <;> first | exact ⟨_, rfl⟩ | cases hi
  obtain ⟨p, hp⟩ := hp
  rw [exec_of_planOf hp] at h
  cases h
  split
  · exact runPlan_sameBlock p s
  · exact z80Cycle_sameBlock s

/-! ### The tracker -/

/-- Two states that differ in the engine and the tracker only. -/
def OnlyEngTrk (s t : State) : Prop :=
  t.cfg = s.cfg ∧ t.bp = s.bp ∧ t.port = s.port ∧ t.world = s.world

theorem OnlyEngTrk.refl (s : State) : OnlyEngTrk s s := ⟨rfl, rfl, rfl, rfl⟩

theorem OnlyEngTrk.trans {s t u : State} (h : OnlyEngTrk s t) (g : OnlyEngTrk t u) : OnlyEngTrk s u :=
  ⟨g.1.trans h.1, g.2.1.trans h.2.1, g.2.2.1.trans h.2.2.1, g.2.2.2.trans h.2.2.2⟩

theorem withTrk_onlyEngTrk (s : State) (t : Tracker) : OnlyEngTrk s (s.withTrk t) := ⟨rfl, rfl, rfl, rfl⟩

theorem changeSocket_onlyEngTrk (h : Nat) (f : Socket → Socket) (s : State) :
    OnlyEngTrk s (changeSocket h f s).2 := by
  rw [changeSocket_frame]; exact ⟨rfl, rfl, rfl, rfl⟩

theorem requestBus_onlyEngTrk (h : Nat) (r : Byte) (s : State) : OnlyEngTrk s (requestBus h r s).2 := by
  unfold requestBus
  split
  · split <;> exact ⟨rfl, rfl, rfl, rfl⟩
  · exact OnlyEngTrk.refl s

theorem releaseHold_onlyEngTrk (s : State) : OnlyEngTrk s (releaseHold s) := by
  unfold releaseHold
  split
  · exact (changeSocket_onlyEngTrk _ _ _).trans (withTrk_onlyEngTrk _ _)
  · exact OnlyEngTrk.refl s

theorem doDisable_onlyEngTrk (s : State) : OnlyEngTrk s (doDisable s) :=
  (((releaseHold_onlyEngTrk s).trans (withTrk_onlyEngTrk _ _)).trans
    (changeSocket_onlyEngTrk _ _ _)).trans (changeSocket_onlyEngTrk _ _ _)

theorem finishInjection_onlyEngTrk (s : State) : OnlyEngTrk s (finishInjection s) := by
  unfold finishInjection
  simp only
  split
  · exact (withTrk_onlyEngTrk _ _).trans (doDisable_onlyEngTrk _)
  · exact ⟨rfl, rfl, rfl, rfl⟩

theorem injectStep_onlyEngTrk (addr : Addr) (data : Byte) (f : CtrlFlags) (s : State) :
    OnlyEngTrk s (injectStep addr data f s).2 := by
  unfold injectStep
  split
  · simp only
    split
    · split
      · exact (withTrk_onlyEngTrk s _).trans (finishInjection_onlyEngTrk _)
      · exact ⟨rfl, rfl, rfl, rfl⟩
    · split
      · exact (withTrk_onlyEngTrk s _).trans (finishInjection_onlyEngTrk _)
      · exact ⟨rfl, rfl, rfl, rfl⟩
  · split
    · simp only
      split
      · exact (withTrk_onlyEngTrk s _).trans (requestBus_onlyEngTrk _ _ _)
      · exact ⟨rfl, rfl, rfl, rfl⟩
    · exact OnlyEngTrk.refl s

theorem boundaryStep_onlyEngTrk (addr : Addr) (data : Byte) (f : CtrlFlags) (s : State) :
    OnlyEngTrk s (boundaryStep addr data f s).2 := by
  have h1 : ∀ hit, OnlyEngTrk s (noteBreak addr hit s) := by
    intro hit
    unfold noteBreak
    split <;> exact ⟨rfl, rfl, rfl, rfl⟩
  unfold boundaryStep
  simp only
  split
  · exact (h1 _).trans (withTrk_onlyEngTrk _ _)
  · split
    · exact ((h1 _).trans (withTrk_onlyEngTrk _ _)).trans ((changeSocket_onlyEngTrk _ _ _).trans
        ⟨rfl, rfl, rfl, rfl⟩)
    · split
      · exact ((h1 _).trans (withTrk_onlyEngTrk _ _)).trans (injectStep_onlyEngTrk _ _ _ _)
      · exact (h1 _).trans ⟨rfl, rfl, rfl, rfl⟩

/-- The tracker's `on_wait_cycle` changes the tracker and its socket only. -/
theorem trackerOnWaitCycle_onlyEngTrk (addr : Addr) (data : Byte) (f : CtrlFlags) (s : State) :
    OnlyEngTrk s (trackerOnWaitCycle addr data f s).2 := by
  unfold trackerOnWaitCycle
  split
  · exact OnlyEngTrk.refl s
  · split
    · exact injectStep_onlyEngTrk _ _ _ _
    · split
      · exact OnlyEngTrk.refl s
      · exact boundaryStep_onlyEngTrk _ _ _ _

/-- The tracker's `on_bus_action_complete` changes the tracker and its socket only. -/
theorem trackerOnComplete_onlyEngTrk (a : BusAction) (reason : Byte) (o : ActOutcome) (s : State) :
    OnlyEngTrk s (trackerOnComplete a reason o s) := by
  have ha : OnlyEngTrk s (abortInjection s) := by
    unfold abortInjection
    split
    · simp only
      split
      · exact (withTrk_onlyEngTrk _ _).trans (doDisable_onlyEngTrk _)
      · exact ⟨rfl, rfl, rfl, rfl⟩
    · exact OnlyEngTrk.refl s
  unfold trackerOnComplete
  split
  · exact OnlyEngTrk.refl s
  · exact (ha.trans (withTrk_onlyEngTrk _ _)).trans (releaseHold_onlyEngTrk _)
  · split <;> exact ⟨rfl, rfl, rfl, rfl⟩
  · split <;> exact ⟨rfl, rfl, rfl, rfl⟩
  · split
    · split
      · unfold mirrorMemory
        split <;> exact ⟨rfl, rfl, rfl, rfl⟩
      · exact ⟨rfl, rfl, rfl, rfl⟩
    · exact OnlyEngTrk.refl s

/-! ### A whole step -/

/-- What a step keeps: a property that survives the choice of the next turn, a write of the port, the
meaning of every instruction, one bus cycle, and what the Z80 does outside 46_injection.md R361. -/
theorem step_keeps {P : State → Prop} (hTurn : ∀ s, P s → P (nextTurn s).2)
    (hPort : ∀ s p, P s → P (s.withPort p)) (hExec : ∀ i s t, P s → exec i s = .next t → P t)
    (hCycle : ∀ s, P s → P (z80Cycle s)) (hOutside : ∀ m s, P s → P (outsideMove m s))
    {s t : State} (hs : P s) (h : step s = .next t) : P t := by
  have h1 := hTurn s hs
  unfold step at h
  revert h h1
  generalize nextTurn s = r
  obtain ⟨u, s1⟩ := r
  intro h h1
  simp only at h h1
  cases u with
  | host w p =>
    simp only [takeTurn, hostTurn] at h
    split at h
    · exact hExec _ _ _ (hPort _ _ h1) h
    · cases h
      exact hPort _ _ (hPort _ _ h1)
  | z80 =>
    simp only [takeTurn, z80Turn] at h
    split at h
    · split at h
      · exact hExec _ _ _ h1 h
      · cases h; exact hCycle _ h1
    · cases h; exact hCycle _ h1
  | outside m => cases h; exact hOutside _ _ h1

end Sys2Proof.Machine
end

