-- ==== Sys2Proof/Laws/Service.lean ====
section
/-! SUPPORT. The parts of a service tick (41_wait_service.md R170 to R186) and of the arbiter
(42_bus_actions.md R212 to R217). -/

namespace Sys2Proof.Machine

/-- The settle loop takes a cycle whose lines have settled at its first sample (41_wait_service.md R173). -/
theorem settleLoop_settled {s : State} {c : Presented} {n : Nat} (h : s.world.present = some c)
    (hs : c.settle = []) (hv : validSettled (sixFlags c.flags) = true) :
    settleLoop (n + 1) s = (some (sixFlags c.flags), s) := by
  simp [settleLoop, sampleCtrl_settled h hs, hv]

/-- The settle loop takes a cycle whose lines settle within its samples, and leaves them settled
(41_wait_service.md R173). -/
theorem settleLoop_settles {n : Nat} : ∀ {s : State} {c : Presented}, s.world.present = some c →
    validSettled (sixFlags c.flags) = true → unsettled c < n →
    settleLoop n s = (some (sixFlags c.flags),
      s.withWorld { s.world with present := some { c with settle := [] } }) := by
  induction n with
  | zero => intro s c _ _ hn; cases hn
  | succ n ih =>
    intro s c h hv hn
    cases hs : c.settle with
    | nil =>
      have hw : s.withWorld { s.world with present := some { c with settle := [] } } = s := by
        obtain ⟨_, _, _, _, _⟩ := c
        cases hs
        rw [← h]; rfl
      rw [settleLoop_settled h hs hv, hw]
    | cons f fs =>
      cases hf : validSettled (sixFlags f)
      · have hc : unsettled { c with settle := fs } < n := by
          simp only [unsettled, hs, List.takeWhile_cons, hf, Bool.not_false, if_true,
            List.length_cons] at hn ⊢
          omega
        rw [settleLoop, sampleCtrl_unsettled h hs hf]
        simp only [hf, Bool.false_eq_true, if_false]
        rw [ih (c := { c with settle := fs }) rfl hv hc]
        rfl
      · rw [settleLoop, sampleCtrl_settles h hs hf]
        simp [hv]

/-- The settle loop gives up on a cycle whose lines do not settle within its samples, and has only taken
samples (41_wait_service.md R174). -/
theorem settleLoop_gives_up {n : Nat} : ∀ {s : State} {c : Presented}, s.world.present = some c →
    validSettled (sixFlags c.flags) = false ∨ n ≤ unsettled c →
    ∃ fs, settleLoop n s =
      (none, s.withWorld { s.world with present := some { c with settle := fs } }) := by
  induction n with
  | zero =>
    intro s c h _
    exact ⟨c.settle, by rw [settleLoop, ← h]; rfl⟩
  | succ n ih =>
    intro s c h hn
    cases hs : c.settle with
    | nil =>
      have hv : validSettled (sixFlags c.flags) = false := by
        rcases hn with hn | hn
        · exact hn
        · simp [unsettled, hs] at hn
      rw [settleLoop, sampleCtrl_settled h hs]
      simp only [hv, Bool.false_eq_true, if_false]
      obtain ⟨fs, h1⟩ := ih h (.inl hv)
      exact ⟨fs, h1⟩
    | cons f fs =>
      cases hf : validSettled (sixFlags f)
      · rw [settleLoop, sampleCtrl_unsettled h hs hf]
        simp only [hf, Bool.false_eq_true, if_false]
        obtain ⟨gs, h1⟩ := ih (c := { c with settle := fs })
          (s := s.withWorld { s.world with present := some { c with settle := fs } }) rfl (by
            rcases hn with hn | hn
            · exact .inl hn
            · refine .inr ?_
              simp only [unsettled, hs, List.takeWhile_cons, hf, Bool.not_false, if_true,
                List.length_cons] at hn ⊢
              omega)
        exact ⟨gs, h1⟩
      · have hv : validSettled (sixFlags c.flags) = false := by
          rcases hn with hn | hn
          · exact hn
          · simp [unsettled, hs, hf] at hn
        rw [settleLoop, sampleCtrl_settles h hs hf]
        simp only [hv, Bool.false_eq_true, if_false]
        obtain ⟨gs, h1⟩ := ih (c := { c with settle := [] })
          (s := s.withWorld { s.world with present := some { c with settle := [] } }) rfl (.inl hv)
        exact ⟨gs, h1⟩

/-- The tracker's turn changes the tracker and its socket only. -/
theorem trackerTurn_onlyEngTrk (addr : Addr) (data : Byte) (f : CtrlFlags) (s : State) :
    OnlyEngTrk s (trackerTurn addr data f s).2 := by
  unfold trackerTurn
  split
  · exact trackerOnWaitCycle_onlyEngTrk _ _ _ _
  · exact OnlyEngTrk.refl s

/-- Where no WAIT is seen, or BUSACK is seen with it, the detect step takes its two samples and latches
nothing (41_wait_service.md R172). -/
theorem waitDetect_undetected {s : State}
    (h : s.world.present = none ∨ s.world.busackDraws.head? = some true) :
    waitDetect s = (sampleBusack s).2 := by
  unfold waitDetect sampleWait
  rcases h with h | h
  · simp [h]
  · unfold sampleBusack
    cases hq : s.world.busackDraws with
    | nil => simp [hq] at h
    | cons b bs => simp only [hq, List.head?_cons, Option.some.injEq] at h; simp [h]

/-- The diagnostic events of a tick change their three counters and draws only (41_wait_service.md
R186). -/
theorem diagEvents_cases (s : State) :
    ∃ (d : Word32 × Word32 × Word32) (w : World),
      diagEvents s = (s.withWorld w).withEng { s.eng with
        counters := { s.eng.counters with
          diagSpuriousBusrq := s.eng.counters.diagSpuriousBusrq + d.1
          diagIrqDuringBusack := s.eng.counters.diagIrqDuringBusack + d.2.1
          diagIrqWithoutWait := s.eng.counters.diagIrqWithoutWait + d.2.2 } } ∧
      { w with draws := s.world.draws, diagDraws := s.world.diagDraws } = s.world := by
  refine ⟨(drawDiag s).1, (drawDiag s).2.world, ?_, ?_⟩
  · cases h : s.world.diagDraws <;> simp only [diagEvents, drawDiag, h] <;> rfl
  · cases h : s.world.diagDraws <;> simp only [drawDiag, h] <;> simp [State.withWorld, ← h]

/-- The scan finds nothing where nothing is asked for. -/
theorem findRequest_none {s : State} {hs : List Nat}
    (h : ∀ j ∈ hs, (sockAt s j).actionRequest = none ∧ (sockAt s j).busMasterRequest = none) :
    findRequest s hs = none := by
  induction hs with
  | nil => rfl
  | cons j hs ih =>
    have hj := h j (List.mem_cons_self ..)
    simp [findRequest, hj, ih (fun k hk => h k (List.mem_cons_of_mem _ hk))]

/-- All that the scan can find: the first handle that has a request, its action and reason, and its record
without that request (42_bus_actions.md R212). -/
theorem findRequest_some {s : State} {hs : List Nat} {h : Nat} {a : BusAction} {r : Byte} {k : Socket}
    (hf : findRequest s hs = some (h, a, r, k)) :
    h ∈ hs ∧
    ((∃ p, (sockAt s h).actionRequest = some (p, r) ∧ a = actionOfPulse p ∧
        k = { sockAt s h with actionRequest := none }) ∨
      ((sockAt s h).actionRequest = none ∧ (sockAt s h).busMasterRequest = some r ∧
        a = .busRequest ∧ k = { sockAt s h with busMasterRequest := none })) := by
  induction hs with
  | nil => cases hf
  | cons j hs ih =>
    simp only [findRequest] at hf
    split at hf
    · rename_i p reason ha
      cases hf
      exact ⟨List.mem_cons_self .., .inl ⟨p, ha, rfl, rfl⟩⟩
    · rename_i ha
      split at hf
      · rename_i reason hb
        cases hf
        exact ⟨List.mem_cons_self .., .inr ⟨ha, hb, rfl, rfl⟩⟩
      · obtain ⟨h1, h2⟩ := ih hf
        exact ⟨List.mem_cons_of_mem _ h1, h2⟩

end Sys2Proof.Machine
end

