-- ==== Sys2Proof/Tests/Slice0.lean ====
section
/-! SUPPORT. Tests of the model: ill-formed terms, words written out from 30_encoding.md R105 and
46_injection.md R361, one or two small steps for each instruction with results taken from
spec/95_test_vectors.md or worked out by hand from the rule named, and states that meet the hypotheses
of every statement. -/

namespace Sys2Proof.Machine

set_option Elab.async false

/-! ### Ill-formed terms -/

theorem test_wf_refuses_wide_bpSet : (Instr.bpSet .fast 128 0).wf = false := by decide
theorem test_wf_refuses_wide_bpClear : (Instr.bpClear .slow 200).wf = false := by decide
theorem test_wf_refuses_flag_bit6 : (Instr.checkForBreak 0x40 0).wf = false := by decide
theorem test_wf_refuses_flag_bit7 : (Instr.checkForBreak 0xB5 0x1234).wf = false := by decide

/-! ### Decoding: a word of every row, written out from its encoding -/

/-- Socket commands: `op[31:24] h[23:16] imm[15:0]`; VE1, VE2, VE4 to VE7, VE10 among them. -/
theorem test_decode_socket_words :
    decodeCommand 0b00000001_00000000_00000000_00000000#32 = .ok .addSocket ∧
    decodeCommand 0b00000010_00000001_00000000_00000001#32 = .ok (.enableSocket 1 true) ∧
    decodeCommand 0b00000011_00000000_00000000_00000010#32 = .ok (.setWaitOn 0 false true) ∧
    decodeCommand 0b00000011_00000010_00000000_00000001#32 = .ok (.setWaitOn 2 true false) ∧
    decodeCommand 0b00000100_00000010_00000000_00000001#32 = .ok (.setHold 2 true) ∧
    decodeCommand 0b00000101_00000001_00100010_00000011#32 = .ok (.requestAction 1 0x22 3) ∧
    decodeCommand 0b00000110_00000001_01000000_00000000#32 = .ok (.requestBus 1 0x40) := by decide

/-- Service and arbiter commands; VE12. -/
theorem test_decode_service_words :
    decodeCommand 0b00001000_00000000_00000000_00000000#32 = .ok .serviceTick ∧
    decodeCommand 0b00001001_00000000_00000000_00000000#32 = .ok .checkPending ∧
    decodeCommand 0b00001010_00000000_00000000_00000000#32 = .ok .startPending ∧
    decodeCommand 0b00001011_00000000_00000000_00000000#32 = .ok .advancePending := by decide

/-- Mastership and block transfers, `q = x[1]`, `i = x[0]`; VE14, VE15. -/
theorem test_decode_block_words :
    decodeCommand 0b00001100_00000000_00000000_00000000#32 = .ok .requestAndTake ∧
    decodeCommand 0b00001101_00000000_00000000_00000000#32 = .ok .release ∧
    decodeCommand 0b00001110_00000010_00111100_00000000#32 = .ok (.blockRead true false 0x3C00) ∧
    decodeCommand 0b00001110_00000001_00111100_00000000#32 = .ok (.blockRead false true 0x3C00) ∧
    decodeCommand 0b00001111_00000010_00111100_00000000#32 = .ok (.blockWrite true false 0x3C00) := by
  decide

/-- Tracker commands; VE17. -/
theorem test_decode_tracker_words :
    decodeCommand 0b00010000_00000000_00000000_00000001#32 = .ok (.trkEnable true) ∧
    decodeCommand 0b00010000_00000000_00000000_00000000#32 = .ok (.trkEnable false) ∧
    decodeCommand 0b00010001_00000000_00000000_00000000#32 = .ok .trkRequestGet ∧
    decodeCommand 0b00010010_00000000_00000000_00000000#32 = .ok .trkStartSet ∧
    decodeCommand 0b00010011_00000000_00000000_00000000#32 = .ok .trkStep ∧
    decodeCommand 0b00010100_00000000_00000000_00000000#32 = .ok .trkRun ∧
    decodeCommand 0b00010101_00000000_00000000_00000000#32 = .ok .trkHalt ∧
    decodeCommand 0b00100000_00000000_00000000_00000000#32 = .ok .onWaitCycle ∧
    decodeCommand 0b00100001_00000000_00000000_00000000#32 = .ok .onBusActionComplete := by decide

/-- Breakpoints, `t ++ idx = x`; VE18, VE19, VE20, VE22. -/
theorem test_decode_breakpoint_words :
    decodeCommand 0b00011000_10000011_00010010_00110100#32 = .ok (.bpSet .slow 3 0x1234) ∧
    decodeCommand 0b00011000_00000000_00000010_00000010#32 = .ok (.bpSet .fast 0 0x0202) ∧
    decodeCommand 0b00011001_11111111_00000000_00000000#32 = .ok (.bpClear .slow 127) ∧
    decodeCommand 0b00011010_00000000_00000000_00000001#32 = .ok (.bpGlobalEnable true) ∧
    decodeCommand 0b00011011_00110101_00010010_00110100#32 = .ok (.checkForBreak 0x35 0x1234) ∧
    decodeCommand 0b00011100_00000000_00000000_11001011#32 = .ok (.isPrefix 0xCB) := by decide

/-- Z80 instructions of one byte (46_injection.md R361). -/
theorem test_decode_z80_one_byte :
    decodeZ80 [0b11110101] = .ok (.pushAf, []) ∧ decodeZ80 [0b11110001] = .ok (.popAf, []) ∧
    decodeZ80 [0b11011001] = .ok (.exx, []) ∧ decodeZ80 [0b00001000] = .ok (.exAfAf, []) ∧
    decodeZ80 [0b11111011] = .ok (.ei, []) ∧ decodeZ80 [0b11110011] = .ok (.di, []) := by decide

/-- Z80 instructions with a prefix and no operand (46_injection.md R361). -/
theorem test_decode_z80_prefixed :
    decodeZ80 [0xDD, 0xE5] = .ok (.pushIx, []) ∧ decodeZ80 [0xFD, 0xE5] = .ok (.pushIy, []) ∧
    decodeZ80 [0xED, 0x5F] = .ok (.ldAR, []) ∧ decodeZ80 [0xED, 0x57] = .ok (.ldAI, []) ∧
    decodeZ80 [0xED, 0x4F] = .ok (.ldRA, []) ∧ decodeZ80 [0xED, 0x47] = .ok (.ldIA, []) ∧
    decodeZ80 [0xED, 0x46] = .ok (.im0, []) ∧ decodeZ80 [0xED, 0x56] = .ok (.im1, []) ∧
    decodeZ80 [0xED, 0x5E] = .ok (.im2, []) := by decide

/-- Z80 instructions with an operand, its low byte first (46_injection.md R361, 20_memory.md R82). -/
theorem test_decode_z80_operand :
    decodeZ80 [0x32, 0x34, 0x12] = .ok (.ldMemA 0x1234, []) ∧
    decodeZ80 [0x22, 0x34, 0x12] = .ok (.ldMemHl 0x1234, []) ∧
    decodeZ80 [0xED, 0x53, 0x34, 0x12] = .ok (.ldMemDe 0x1234, []) ∧
    decodeZ80 [0xED, 0x43, 0x34, 0x12] = .ok (.ldMemBc 0x1234, []) ∧
    decodeZ80 [0x3E, 0x42, 0x00] = .ok (.ldAN 0x42, [0x00]) ∧
    decodeZ80 [0x18, 0xFE] = .ok (.jrD 0xFE, []) ∧
    decodeZ80 [0xC3, 0x00, 0x40] = .ok (.jpNn 0x4000, []) := by decide

/-- The loads of a pair. -/
theorem test_decode_z80_pair_loads :
    decodeZ80 [0x01, 0x0A, 0x09] = .ok (.ldBcNn 0x090A, []) ∧
    decodeZ80 [0x11, 0x0C, 0x0B] = .ok (.ldDeNn 0x0B0C, []) ∧
    decodeZ80 [0x21, 0x0E, 0x0D] = .ok (.ldHlNn 0x0D0E, []) ∧
    decodeZ80 [0x31, 0xFE, 0xFF] = .ok (.ldSpNn 0xFFFE, []) ∧
    decodeZ80 [0xDD, 0x21, 0x11, 0x10] = .ok (.ldIxNn 0x1011, []) ∧
    decodeZ80 [0xFD, 0x21, 0x13, 0x12] = .ok (.ldIyNn 0x1213, []) := by decide

/-- Reserved bits and reserved opcodes are refused by name: VE3, VE9, VE11, VE13, VE16, VE21, VE23, VE24. -/
theorem test_decode_refuses_reserved :
    decodeCommand 0x02010002 = .error (.reservedBits 0x02) ∧
    decodeCommand 0x05012204 = .error (.reservedBits 0x05) ∧
    decodeCommand 0x06014001 = .error (.reservedBits 0x06) ∧
    decodeCommand 0x08000001 = .error (.reservedBits 0x08) ∧
    decodeCommand 0x0E043C00 = .error (.reservedBits 0x0E) ∧
    decodeCommand 0x1B751234 = .error (.reservedBits 0x1B) ∧
    decodeCommand 0x1C0001CB = .error (.reservedBits 0x1C) ∧
    decodeCommand 0x07000000 = .error (.illegalOp 0x07) ∧
    decodeCommand 0xFF000000 = .error (.illegalOp 0xFF) := by decide

/-- Bytes that begin no listed instruction are refused by name. -/
theorem test_decode_z80_refuses_unlisted :
    decodeZ80 [0x00] = .error (.unlistedBytes 0x00) ∧
    decodeZ80 [0xDD, 0xCB] = .error (.unlistedBytes 0xCB) ∧
    decodeZ80 [0xED, 0x43, 0x34] = .error .truncated ∧ decodeZ80 [] = .error .truncated := by decide

/-! ### Small states -/

/-- The state an outcome leads to. -/
def landed : Host.Outcome State Fault Refusal → State
  | .next t => t
  | .fault _ | .refused _ => State.reset

/-- The state after one instruction. -/
def after (i : Instr) (s : State) : State := landed (exec i s)

/-- The result of one instruction. -/
def resultOf (i : Instr) (s : State) : Ret := (after i s).port.result

/-- A state whose next inputs are listed: time that grows as given, BUSACK as given, no diagnostic event. -/
def listing (times : List Nat) (acks : List Bool) (s : State) : State :=
  s.withWorld { s.world with
    timeDraws := times, busackDraws := acks, byteDraws := [0x5A, 0xA5], diagDraws := [(0, 0, 0)] }

/-- A state with a payload at the port. -/
def carrying (p : Payload) (s : State) : State := s.withPort { s.port with payload := p }

/-- A state at time `t`. -/
def atTime (t : Nat) (s : State) : State := s.withWorld { s.world with clock := t }

/-- Reset, with inputs listed: time stands still, and BUSACK is not seen. -/
def base : State := listing [0, 0, 0] [false] State.reset

/-- A collaborator that gives one answer, waits on memory and I/O, and has the durations of
95_test_vectors.md section 2.4. -/
def collaborator (d : Decision) (hold : Bool) : SocketInfo :=
  { enabled := true, waitOnMemory := true, waitOnIo := true, hold := hold
    durResetUs := 100, durNmiUs := 10, durIrqUs := 5
    waitReplies := [{ decision := d }], doneReplies := [[]] }

/-- A state with one more socket. -/
def adding (info : SocketInfo) (s : State) : State := after .addSocket (carrying { info := info } s)

/-- The tracker, off, and socket 1. -/
def two : State := adding (collaborator (.value 0x11) false) base

/-- The tracker, off, and sockets 1 and 2 (VW5: a Value and an InjectOpcode). -/
def three : State := adding (collaborator (.injectOpcode 0x22) false) two

/-- A state with the Z80 held in a wait on a cycle whose lines have settled. -/
def waiting (f : CtrlFlags) (a : Addr) (d : Byte) (s : State) : State :=
  s.withWorld { s.world with
    present := some { flags := f, addr := a, data := d, settle := [], byZ80 := false } }

/-- A state with an action of socket 1 in progress. -/
def acting (st : ActionStatus) (a : BusAction) (s : State) : State :=
  s.withEng { s.eng with act :=
    { status := st, action := a, socket := 1, reason := 7, startTime := 0, assertedAt := 0
      durationUs := 10 } }

/-- A state in which the engine masters the bus. -/
def mastering (s : State) : State := after .requestAndTake (listing [0, 0, 0] [true] s)

/-- The tracker switched on and past its first fetch (95_test_vectors.md VB5). -/
def tracking (s : State) : State :=
  let s1 := after (.trkEnable true) s
  s1.withTrk { s1.trk with hist0 := false, state := .awaiting }

/-- A callback word at the port, issued by the engine, with a wait cycle. -/
def called (f : CtrlFlags) (a : Addr) (d : Byte) (s : State) : State :=
  s.withPort { s.port with issuer := .engine, payload := { addr := a, data := d, flags := f } }

/-- A callback word at the port, issued by the engine, with a completed action. -/
def completed (a : BusAction) (reason : Byte) (o : ActOutcome) (s : State) : State :=
  s.withPort { s.port with
    issuer := .engine, payload := { action := a, reason := reason, outcome := o } }

/-- The registers of Program P1's Z80. -/
def p1Regs : Z80Regs :=
  { pc := 0x0100, sp := 0x8000, af := 0x1234, bc := 0x5678, de := 0x9ABC, hl := 0xDEF0
    ix := 0x99AA, iy := 0xBBCC, afAlt := 0x1122, bcAlt := 0x3344, deAlt := 0x5566, hlAlt := 0x7788
    i := 0x3F, r := 0x04, im := .im1, iff1 := true, iff2 := true, eiShadow := false }

/-- Reset with Program P1's Z80. -/
def p1 : State := base.withWorld { base.world with z80 := z80Idle p1Regs }

/-- The Z80's registers after one instruction of Program P1's Z80. -/
def regsAfter (i : Instr) : Z80Regs := (after i p1).world.z80.regs

/-- The snapshot of Program P2. -/
def p2Snapshot : Z80Registers :=
  { pc := 0x4000, sp := 0x0002, af := 0xA55A, bc := 0x0102, de := 0x0304, hl := 0x0506
    afAlt := 0x0708, bcAlt := 0x090A, deAlt := 0x0B0C, hlAlt := 0x0D0E, ix := 0x1011, iy := 0x1213
    i := 0x80, r := 0x81, im := 2, iff := true }

/-! ### Socket commands -/

/-- VS1: the first collaborator is handle 1, and I/O cycles wait. -/
theorem test_addSocket :
    two.port.result = .ok (.handle 1) ∧ two.eng.waitGenIo = true ∧
    (sockAt two 1).durNmiUs = 10 ∧ two.eng.numSockets = 2 := by decide +kernel

/-- WE6: the table is full at three. -/
theorem test_addSocket_full :
    (adding {} three).port.result = .error .resourceExhausted ∧
    (adding {} three).eng.numSockets = 3 := by decide +kernel

/-- VS4: the last socket that waits on I/O is disabled. -/
theorem test_enableSocket :
    (after (.enableSocket 1 false) two).eng.waitGenIo = false ∧
    (sockAt (after (.enableSocket 1 false) two) 1).enabled = false := by decide +kernel

/-- VS3: a handle that is not registered. -/
theorem test_enableSocket_unregistered : resultOf (.enableSocket 3 true) three = invalid := by
  decide +kernel

/-- VE5's operands: m is 0 and i is 1. -/
theorem test_setWaitOn :
    (after (.setWaitOn 1 false true) two).eng.waitGenMem = false ∧
    (after (.setWaitOn 1 false true) two).eng.waitGenIo = true := by decide +kernel

/-- VS7: a disabled socket's hold counts. -/
theorem test_setHold :
    (after (.setHold 2 true) (after (.enableSocket 2 false) three)).eng.wait.hold = true ∧
    (after (.setHold 2 false) (after (.setHold 2 true) three)).eng.wait.hold = false := by
  decide +kernel

/-- VS8: a second request is Busy, and the first is kept. -/
theorem test_requestAction :
    (sockAt (after (.requestAction 1 0x22 1) two) 1).actionRequest = some (.reset, 0x22) ∧
    resultOf (.requestAction 1 0x33 2) (after (.requestAction 1 0x22 1) two) = busy := by
  decide +kernel

/-- VE8: action 0 is no action. -/
theorem test_requestAction_none : resultOf (.requestAction 1 0x22 0) two = invalid := by decide +kernel

/-- VS9. -/
theorem test_requestBus :
    (sockAt (after (.requestBus 1 0x40) two) 1).busMasterRequest = some 0x40 ∧
    resultOf (.requestBus 1 0x41) (after (.requestBus 1 0x40) two) = busy := by decide +kernel

/-! ### The wait service -/

/-- VW5: InjectOpcode beats Value. -/
theorem test_serviceTick_merge :
    (after .serviceTick (waiting 0x35 0x1000 0 three)).world.delivered = some 0x22 ∧
    (after .serviceTick (waiting 0x35 0x1000 0 three)).eng.counters.mreqRd = 1 ∧
    (after .serviceTick (waiting 0x35 0x1000 0 three)).world.present = none := by decide +kernel

/-- VW7: a write reaches memory, and a Value on a write drives nothing. -/
theorem test_serviceTick_write :
    memRead 0x1000 (after .serviceTick (waiting 0x26 0x1000 0x44 two)) = 0x44 ∧
    (after .serviceTick (waiting 0x26 0x1000 0x44 two)).world.delivered = none ∧
    (after .serviceTick (waiting 0x26 0x1000 0x44 two)).eng.counters.mreqWr = 1 := by decide +kernel

/-! ### The arbiter -/

/-- VA1: the lowest handle's request is taken; the other is kept. -/
theorem test_checkPending :
    (after .checkPending (after (.requestAction 2 3 1) (after (.requestAction 1 7 2)
      (atTime 1000 three)))).eng.act =
      { status := .pending, action := .nmi, socket := 1, reason := 7, startTime := 1000
        assertedAt := 0, durationUs := 0 } ∧
    (sockAt (after .checkPending (after (.requestAction 2 3 1) (after (.requestAction 1 7 2)
      (atTime 1000 three)))) 2).actionRequest = some (.reset, 3) := by decide +kernel

/-- WE4: a no-op while an action is asserted. -/
theorem test_checkPending_noop :
    (after .checkPending (after (.requestAction 1 5 2) (acting .asserted .reset two))).eng.act.action =
      .reset ∧
    (sockAt (after .checkPending (after (.requestAction 1 5 2) (acting .asserted .reset two))) 1).actionRequest
      = some (.nmi, 5) := by decide +kernel

/-- VA2. -/
theorem test_startPending :
    (after .startPending (atTime 1000 (acting .pending .nmi two))).eng.lineNmi = true ∧
    (after .startPending (atTime 1000 (acting .pending .nmi two))).eng.act.assertedAt = 1000 ∧
    (after .startPending (atTime 1000 (acting .pending .nmi two))).eng.act.status = .asserted := by
  decide +kernel

/-- VA6, seen after the handshake: the bus was lent, and is given back. -/
theorem test_startPending_busRequest :
    (after .startPending (listing [0, 0] [true] (acting .pending .busRequest two))).eng.mastered = false ∧
    (after .startPending (listing [0, 0] [true]
      (acting .pending .busRequest two))).eng.skipRefreshPrimed = true ∧
    doneCalls (after .startPending (listing [0, 0] [true] (acting .pending .busRequest two))) =
      [.complete 1 .busRequest 7 .ok, .complete 0 .busRequest 7 .ok] := by decide +kernel

/-- VA3: nothing at 5 of 10 microseconds; the end at 10. -/
theorem test_advancePending :
    (after .advancePending (atTime 5 (acting .asserted .nmi two))).eng.act.status = .asserted ∧
    (after .advancePending (atTime 10 (acting .asserted .nmi two))).eng.act.status = .none ∧
    doneCalls (after .advancePending (atTime 10 (acting .asserted .nmi two))) =
      [.complete 1 .nmi 7 .ok, .complete 0 .nmi 7 .ok] := by decide +kernel

/-! ### Mastership and block transfers -/

/-- VM1: BUSACK at the second poll. -/
theorem test_requestAndTake :
    (after .requestAndTake (listing [0, 1] [false, true] two)).eng.mastered = true ∧
    (after .requestAndTake (listing [0, 1] [false, true] two)).eng.waitGenMem = false ∧
    (after .requestAndTake (listing [0, 1] [false, true] two)).eng.lineBusrq = true := by decide +kernel

/-- VM2: the poll passes 50 microseconds. -/
theorem test_requestAndTake_noBusAck :
    resultOf .requestAndTake (listing [0, 50] [false] two) = .noBusAck ∧
    (after .requestAndTake (listing [0, 50] [false] two)).eng.lineBusrq = false := by decide +kernel

/-- VM6 and VM5. -/
theorem test_release :
    (after .release (mastering two)).eng.skipRefreshPrimed = true ∧
    (after .release (mastering two)).eng.waitGenMem = true ∧
    resultOf .release two = invalid := by decide +kernel

/-- VM10: a block read wraps at the end of memory, and the bus is given back. -/
theorem test_blockRead :
    resultOf (.blockRead true false 0xFFFF) (carrying { len := 2 } (listing [0, 0] [true]
      (memWrite 0x0000 0x22 (memWrite 0xFFFF 0x11 two)))) = .ok (.buffer [0x11, 0x22]) := by
  decide +kernel

/-- VM7 and VM14: no mastership and no auto; and two draws of the I/O oracle. -/
theorem test_blockRead_io :
    resultOf (.blockRead false false 0x1000) (carrying { len := 16 } two) = invalid ∧
    resultOf (.blockRead false true 0x00FE) (carrying { len := 2 } (mastering two)) =
      .ok (.buffer [0x5A, 0xA5]) := by decide +kernel

/-- VM11. -/
theorem test_blockWrite :
    memRead 0x3C00 (after (.blockWrite false false 0x3C00)
      (carrying { buf := [0xA5, 0x5A] } (mastering two))) = 0xA5 ∧
    memRead 0x3C01 (after (.blockWrite false false 0x3C00)
      (carrying { buf := [0xA5, 0x5A] } (mastering two))) = 0x5A ∧
    (after (.blockWrite false false 0x3C00)
      (carrying { buf := [0xA5, 0x5A] } (mastering two))).eng.mastered = true := by decide +kernel

/-! ### Breakpoints -/

/-- VB9 and VB10: the lowest index is reported; index 4 of 4 is refused. -/
theorem test_bpSet :
    resultOf (.checkForBreak 0x35 0x4000) (after (.bpSet .fast 1 0x4000) (carrying { msg := "a" }
      (after (.bpSet .fast 2 0x4000) (carrying { msg := "b" } base)))) =
      .ok (.hit (some (.fast, 1, "a"))) ∧
    resultOf (.bpSet .fast 4 0) base = invalid := by decide +kernel

/-- WE5: a cleared entry is not reported, and keeps its pc. -/
theorem test_bpClear :
    resultOf (.checkForBreak 0x35 0x1234)
      (after (.bpClear .fast 0) (after (.bpSet .fast 0 0x1234) base)) = .ok (.hit none) ∧
    (after (.bpClear .fast 0) (after (.bpSet .fast 0 0x1234) base)).bp.fast.map Breakpoint.pc =
      [0x1234, 0, 0, 0] := by decide +kernel

/-- VB6 and VB7. -/
theorem test_bpGlobalEnable :
    resultOf (.checkForBreak 0x35 0x2000)
      (after (.bpSet .slow 3 0x2000) (carrying { msg := "s" } base)) = .ok (.hit none) ∧
    resultOf (.checkForBreak 0x35 0x2000) (after (.bpGlobalEnable true)
      (after (.bpSet .slow 3 0x2000) (carrying { msg := "s" } base))) =
      .ok (.hit (some (.slow, 3, "s"))) := by decide +kernel

/-- WE5: an M1 read at the address, and not an interrupt acknowledge. -/
theorem test_checkForBreak :
    resultOf (.checkForBreak 0x35 0x1234)
      (after (.bpSet .fast 0 0x1234) (carrying { msg := "x" } base)) =
      .ok (.hit (some (.fast, 0, "x"))) ∧
    resultOf (.checkForBreak 0x38 0x1234)
      (after (.bpSet .fast 0 0x1234) (carrying { msg := "x" } base)) = .ok (.hit none) := by
  decide +kernel

/-- WE8. -/
theorem test_isPrefix :
    resultOf (.isPrefix 0xCB) base = .ok (.bool true) ∧
    resultOf (.isPrefix 0x3E) base = .ok (.bool false) := by decide +kernel

/-! ### The tracker -/

/-- VT1. -/
theorem test_trkEnable :
    (after (.trkEnable true) base).trk.enabled = true ∧
    (after (.trkEnable true) base).trk.state = .idle ∧
    (after (.trkEnable true) base).trk.getRequested = true ∧
    (after (.trkEnable true) base).eng.waitGenMem = true := by decide +kernel

/-- VT2. -/
theorem test_trkEnable_off :
    (after (.trkEnable false) (tracking base)).trk.state = .idle ∧
    (sockAt (after (.trkEnable false) (tracking base)) 0).enabled = false ∧
    (sockAt (after (.trkEnable false) (tracking base)) 0).waitOnMemory = false := by decide +kernel

/-- 44_boundary_breakpoints.md R284: a TRK_ENABLE 1 of a tracker that is on, at a known place, sets the
history. -/
theorem test_trkEnable_again_sets_history :
    (tracking base).trk.hist0 = false ∧
    (after (.trkEnable true) (tracking base)).trk.hist0 = true ∧
    (after (.trkEnable true) (tracking base)).trk.state = .awaiting := by decide +kernel

/-- VT5: every one of the five is refused while the tracker is off. -/
theorem test_trkCommands_off :
    resultOf .trkRequestGet base = invalid ∧ resultOf .trkStep base = invalid ∧
    resultOf .trkRun base = invalid ∧ resultOf .trkHalt base = invalid ∧
    resultOf .trkStartSet base = invalid := by decide +kernel

/-- 45_tracker.md R311. -/
theorem test_trkRequestGet :
    (after .trkRequestGet (tracking base)).trk.getRequested = true := by decide +kernel

/-- VT6 and its accepted neighbour. -/
theorem test_trkStartSet :
    resultOf .trkStartSet (carrying { regs := { p2Snapshot with im := 3 } } (tracking base)) = invalid ∧
    (after .trkStartSet (carrying { regs := p2Snapshot } (tracking base))).trk.setRequest =
      some p2Snapshot := by decide +kernel

/-- 45_tracker.md R313: step mode on, and the tracker's hold dropped (Program P3, host command 2). -/
theorem test_trkStep :
    (after .trkStep (after .onWaitCycle (called 0x35 0x0202 0
      ((tracking base).withTrk { (tracking base).trk with holdArmed := true })))).eng.wait.hold = false ∧
    (after .trkStep (tracking base)).trk.stepInto = true := by decide +kernel

/-- 45_tracker.md R314: step mode and an armed hold are dropped. -/
theorem test_trkRun :
    (after .trkRun ((tracking base).withTrk
      { (tracking base).trk with stepInto := true, holdArmed := true })).trk.stepInto = false ∧
    (after .trkRun ((tracking base).withTrk
      { (tracking base).trk with stepInto := true, holdArmed := true })).trk.holdArmed = false := by
  decide +kernel

/-- 45_tracker.md R315. -/
theorem test_trkHalt : (after .trkHalt (tracking base)).trk.stepInto = true := by decide +kernel

/-- Program P1, cycle 1: the boundary fetch starts the GET and gets its first byte. -/
theorem test_onWaitCycle_boundary :
    resultOf .onWaitCycle (called 0x35 0x0101 0x00 (tracking base)) =
      .ok (.decision (.injectOpcode 0xF5)) ∧
    (after .onWaitCycle (called 0x35 0x0101 0x00 (tracking base))).trk.boundaryPc = 0x0101 ∧
    (after .onWaitCycle (called 0x35 0x0101 0x00 (tracking base))).trk.pageOut = true := by
  decide +kernel

/-- Program P1, cycle 2: the first push is captured. -/
theorem test_onWaitCycle_capture :
    capAt (after .onWaitCycle (called 0x26 0x7FFF 0x12
      (after .onWaitCycle (called 0x35 0x0101 0x00 (tracking base))))).trk.cap 0 = (0x7FFF, 0x12) ∧
    (after .onWaitCycle (called 0x26 0x7FFF 0x12
      (after .onWaitCycle (called 0x35 0x0101 0x00 (tracking base))))).trk.cursor = 1 := by
  decide +kernel

/-- VT8. -/
theorem test_onBusActionComplete_reset :
    (after .onBusActionComplete (completed .reset 0x22 .ok
      (after .onWaitCycle (called 0x35 0x0101 0x00 (tracking base))))).trk.state = .awaiting ∧
    (after .onBusActionComplete (completed .reset 0x22 .ok
      (after .onWaitCycle (called 0x35 0x0101 0x00 (tracking base))))).trk.pageOut = false ∧
    (after .onBusActionComplete (completed .reset 0x22 .ok
      (after .onWaitCycle (called 0x35 0x0101 0x00 (tracking base))))).trk.hist0 = true := by
  decide +kernel

/-- VT10. -/
theorem test_onBusActionComplete_mirror :
    (after .onBusActionComplete (completed .busRequest 0x01 .ok
      (memWrite 0x4000 0x77 (mastering two)))).trk.mirror = [(0x4000, 0x77)] ∧
    (after .onBusActionComplete (completed .busRequest 0x01 .ok
      (memWrite 0x4000 0x77 (mastering two)))).trk.mirrorValid = true := by decide +kernel

/-! ### The Z80: results of Programs P1 and P2 and by hand from 46_injection.md R361 -/

/-- P1, cycles 2 and 3. -/
theorem test_pushAf :
    memRead 0x7FFF (after .pushAf p1) = 0x12 ∧ memRead 0x7FFE (after .pushAf p1) = 0x34 ∧
    (regsAfter .pushAf).sp = 0x7FFE ∧ (regsAfter .pushAf).r = 0x05 := by decide +kernel

theorem test_popAf :
    (after .popAf (memWrite 0x8001 0xA5 (memWrite 0x8000 0x5A p1))).world.z80.regs.af = 0xA55A ∧
    (regsAfter .popAf).sp = 0x8002 := by decide +kernel

theorem test_pushIx :
    memRead 0x7FFF (after .pushIx p1) = 0x99 ∧ memRead 0x7FFE (after .pushIx p1) = 0xAA ∧
    (regsAfter .pushIx).pc = 0x0102 ∧ (regsAfter .pushIx).r = 0x06 := by decide +kernel

theorem test_pushIy :
    memRead 0x7FFF (after .pushIy p1) = 0xBB ∧ memRead 0x7FFE (after .pushIy p1) = 0xCC ∧
    (regsAfter .pushIy).sp = 0x7FFE := by decide +kernel

/-- "A <- R (value after this instruction's two increments)". -/
theorem test_ldAR : hi (regsAfter .ldAR).af = 0x06 ∧ (regsAfter .ldAR).r = 0x06 :=
  ⟨hi_pair _ _, by decide +kernel⟩

/-- P/V takes IFF2. -/
theorem test_ldAI : hi (regsAfter .ldAI).af = 0x3F ∧ (regsAfter .ldAI).pc = 0x0102 :=
  ⟨hi_pair _ _, by decide +kernel⟩

theorem test_ldRA : (regsAfter .ldRA).r = 0x12 ∧ (regsAfter .ldRA).i = 0x3F := by decide +kernel
theorem test_ldIA : (regsAfter .ldIA).i = 0x12 ∧ (regsAfter .ldIA).r = 0x06 := by decide +kernel

theorem test_ldMemA :
    memRead 0x4000 (after (.ldMemA 0x4000) p1) = 0x12 ∧
    (regsAfter (.ldMemA 0x4000)).pc = 0x0103 := by decide +kernel

/-- The low byte first; nn+1 wraps. -/
theorem test_ldMemHl :
    memRead 0xFFFF (after (.ldMemHl 0xFFFF) p1) = 0xF0 ∧
    memRead 0x0000 (after (.ldMemHl 0xFFFF) p1) = 0xDE := by decide +kernel

theorem test_ldMemDe :
    memRead 0x4000 (after (.ldMemDe 0x4000) p1) = 0xBC ∧
    memRead 0x4001 (after (.ldMemDe 0x4000) p1) = 0x9A ∧
    (regsAfter (.ldMemDe 0x4000)).pc = 0x0104 := by decide +kernel

theorem test_ldMemBc :
    memRead 0x4000 (after (.ldMemBc 0x4000) p1) = 0x78 ∧
    memRead 0x4001 (after (.ldMemBc 0x4000) p1) = 0x56 := by decide +kernel

theorem test_ldAN : (regsAfter (.ldAN 0x42)).af = 0x4234 := by decide +kernel
theorem test_ldBcNn : (regsAfter (.ldBcNn 0x090A)).bc = 0x090A := by decide +kernel
theorem test_ldDeNn : (regsAfter (.ldDeNn 0x0B0C)).de = 0x0B0C := by decide +kernel
theorem test_ldHlNn : (regsAfter (.ldHlNn 0x0D0E)).hl = 0x0D0E := by decide +kernel
theorem test_ldSpNn : (regsAfter (.ldSpNn 0xFFFE)).sp = 0xFFFE := by decide +kernel
theorem test_ldIxNn : (regsAfter (.ldIxNn 0x1011)).ix = 0x1011 := by decide +kernel
theorem test_ldIyNn : (regsAfter (.ldIyNn 0x1213)).iy = 0x1213 := by decide +kernel

theorem test_exx :
    (regsAfter .exx).bc = 0x3344 ∧ (regsAfter .exx).bcAlt = 0x5678 ∧
    (regsAfter .exx).de = 0x5566 ∧ (regsAfter .exx).hl = 0x7788 ∧
    (regsAfter .exx).af = 0x1234 := by decide +kernel

theorem test_exAfAf :
    (regsAfter .exAfAf).af = 0x1122 ∧ (regsAfter .exAfAf).afAlt = 0x1234 := by decide +kernel

theorem test_im :
    (regsAfter .im0).im = .im0 ∧ (regsAfter .im1).im = .im1 ∧ (regsAfter .im2).im = .im2 := by
  decide +kernel

/-- `ei` takes effect after the next instruction (46_injection.md R371). -/
theorem test_ei :
    (regsAfter .ei).iff1 = true ∧ (regsAfter .ei).iff2 = true ∧
    acceptsInterrupt (regsAfter .ei) = false := by decide +kernel

theorem test_di : (regsAfter .di).iff1 = false ∧ (regsAfter .di).iff2 = false := by decide +kernel

/-- The displacement is signed: `18 CE` goes back 50 from the byte after it; at 0x0100 it wraps to
0x00D0. -/
theorem test_jrD : (regsAfter (.jrD 0xCE)).pc = 0x00D0 ∧ (regsAfter (.jrD 0x7F)).pc = 0x0181 := by
  decide +kernel

theorem test_jpNn : (regsAfter (.jpNn 0x4000)).pc = 0x4000 := by decide +kernel

/-- A Z80 in an instruction whose bytes so far are `rx`, at 0x3000 where `b` stands. -/
def fetching (rx : List Byte) (b : Byte) (s : State) : State :=
  memWrite 0x3000 b (s.withWorld { s.world with
    z80 := { regs := { p1Regs with pc := 0x3000 }, rx := rx, wr := 0 } })

/-- VB4: after DD CB the displacement and the opcode are read without M1, so R stays 0x04; and the byte
after CB, ED, DD, FD is fetched with M1. -/
theorem test_z80_indexed_bit_fetches :
    (z80Cycle (fetching [0xDD, 0xCB] 0x05 base)).world.z80.rx = [0xDD, 0xCB, 0x05] ∧
    (z80Cycle (fetching [0xDD, 0xCB, 0x05] 0x06 base)).world.z80.regs.r = 0x04 ∧
    (z80Cycle (fetching [0xDD] 0xCB base)).world.z80.regs.r = 0x05 ∧
    (z80Cycle (fetching [0xCB] 0x06 base)).world.z80.regs.r = 0x05 := by decide +kernel

/-- 70_reset_and_hazards.md R465: ED ED does nothing in two M1 fetches, CB CB is `set 1,e` (DE was 0x9ABC),
and in a run of prefixes the last one is the instruction's own. -/
theorem test_z80_prefix_values :
    (z80Cycle (fetching [0xED] 0xED base)).world.z80 =
      z80Idle { p1Regs with pc := 0x3001, r := 0x05 } ∧
    (z80Cycle (fetching [0xCB] 0xCB base)).world.z80.regs.de = 0x9ABE ∧
    (z80Cycle (fetching [0xDD, 0xFD, 0x21, 0x34] 0x12 base)).world.z80.regs.iy = 0x1234 := by
  decide +kernel

/-- 20_memory.md R85: a valid sample is the cycle's own; 93_implementation_defined.md U8: one that is not
valid is any value. -/
theorem test_sampleCtrl :
    (let c : Presented := { flags := 0x35, addr := 0, data := 0, settle := [0x24, 0x26], byZ80 := false };
      let s := base.withWorld { base.world with present := some c };
      (sampleCtrl s).1 = 0x24 ∧ (sampleCtrl (sampleCtrl s).2).1 = 0x35) := by decide +kernel

/-! ### Vectors of the shared operations -/

/-- VI1 and VI2. -/
theorem test_r7 :
    r7sub 0x08 3 = 0x05 ∧ r7sub 0x02 3 = 0x7F ∧ r7sub 0x81 3 = 0xFE ∧ r7sub 0x80 3 = 0xFD ∧
    r7add 0x7F 1 = 0x00 ∧ r7add 0xFF 1 = 0x80 ∧ r7add 0xFE 3 = 0x81 := by decide

/-- VI11. -/
theorem test_getTemplate :
    getTemplate =
      [0xF5, 0xED, 0x5F, 0x32, 0x00, 0x00, 0xED, 0x57, 0xF5, 0xED, 0x53, 0x00, 0x00, 0xED, 0x43, 0x00,
       0x00, 0x22, 0x00, 0x00, 0xD9, 0x22, 0x00, 0x00, 0xED, 0x53, 0x00, 0x00, 0xED, 0x43, 0x00, 0x00,
       0xD9, 0x08, 0xF5, 0x08, 0xDD, 0xE5, 0xFD, 0xE5, 0x3E, 0x00, 0xED, 0x4F, 0x31, 0x00, 0x00, 0xF1,
       0x00, 0x00, 0x18, 0xCE] := by decide

/-- Program P2's template. -/
theorem test_setTemplate :
    setTemplate p2Snapshot =
      [0x01, 0x0A, 0x09, 0x11, 0x0C, 0x0B, 0x21, 0x0E, 0x0D, 0xD9, 0x01, 0x02, 0x01, 0x11, 0x04, 0x03,
       0x21, 0x06, 0x05, 0xDD, 0x21, 0x11, 0x10, 0xFD, 0x21, 0x13, 0x12, 0x31, 0xFE, 0xFF, 0xF1, 0x08,
       0x07, 0x08, 0x3E, 0x80, 0xED, 0x47, 0xED, 0x5E, 0x3E, 0xFE, 0xED, 0x4F, 0xF1, 0x5A, 0xA5, 0xFB,
       0xC3, 0x00, 0x40] := by decide

/-- The flags of the table of 95_test_vectors.md section 2.1. -/
def tableFlags : List CtrlFlags := [0x35, 0x25, 0x26, 0x29, 0x2A, 0x38, 0x24, 0x27, 0x2D]

/-- The columns of the table of 95_test_vectors.md section 2.1. -/
theorem test_flag_classes :
    tableFlags.map validSettled = [true, true, true, true, true, true, false, true, true] ∧
    tableFlags.map isFetch = [true, false, false, false, false, false, false, false, false] ∧
    tableFlags.map isMemRead = [true, true, false, false, false, false, false, false, false] ∧
    tableFlags.map isMemWrite = [false, false, true, false, false, false, false, false, false] ∧
    tableFlags.map isIo = [false, false, false, true, true, false, false, false, false] ∧
    tableFlags.map isIrqAck = [false, false, false, false, false, true, false, false, false] ∧
    tableFlags.map isRead = [true, true, false, true, false, true, false, false, true] := by decide

/-- VW11: two cycles of lengths 4 and 10. -/
theorem test_countCycle :
    (countCycle 0x35 10 (countCycle 0x35 4 Counters.zero)).latAvgUs = 7 ∧
    (countCycle 0x35 10 (countCycle 0x35 4 Counters.zero)).latMaxUs = 10 ∧
    (countCycle 0x35 10 (countCycle 0x35 4 Counters.zero)).latSumUs = 14 := by decide

/-- VR1. -/
theorem test_reset :
    State.reset.eng.waitGenMem = false ∧ State.reset.trk.state = .idle ∧
    State.reset.trk.regs.im = 0xFF ∧ State.reset.eng.numSockets = 1 ∧
    State.reset.trk.hist0 = true := by decide +kernel

/-! ### A word of each format through the table's numbering -/

theorem test_decodeTableWord :
    decodeTableWord 32 0x05012203 = some (.requestAction 1 0x22 3) ∧
    decodeTableWord 8 0xF5 = some .pushAf ∧ decodeTableWord 16 0x5FED = some .ldAR ∧
    decodeTableWord 32 0x123453ED = some (.ldMemDe 0x1234) ∧
    decodeTableWord 32 0x07000000 = none := by decide

theorem test_withFetchWord_runs :
    (landed (step (State.withFetchWord base 32 0x05000703))).port.result = okNone ∧
    (landed (step (State.withFetchWord base 16 0x423E))).world.z80.regs.af = 0x4200 := by decide +kernel

/-! ### States that meet the hypotheses of the statements, one theorem each

Where a statement has several clauses, each clause has a state, at a boundary value of its range. -/

theorem witness_DecodeEncodeRoundTrip :
    (Instr.bpSet .slow 127 0xFFFF).wf = true ∧ (Instr.checkForBreak 0x3F 0xFFFF).wf = true := by decide

theorem witness_CommandWordsAreTheTable :
    (∃ row ∈ commandRows, 0x1B3FFFFF#32 &&& row.1 = row.2) ∧
    decodeCommand 0x18FFFFFF = .ok (.bpSet .slow 127 0xFFFF) := by
  and_intros <;> decide +kernel

theorem witness_ZBytesDecode :
    (Instr.ldIyNn 0xABCD).isZ80 = true ∧
    [0xFD, 0x21, 0xCD, 0xAB, 0x76] = z80Bytes (.ldIyNn 0xABCD) ++ [0x76#8] := by decide

/-- A host word with its payload; a Z80 instruction at a free Z80's program counter; a stored word. -/
theorem witness_StepRunsDecodedInstruction :
    ((pushTurn (.host 0x05012203 { len := 7 }) base).world.agenda = [.host 0x05012203 { len := 7 }] ∧
      decodeCommand 0x05012203 = .ok (.requestAction 1 0x22 3)) ∧
    ((pushTurn .z80 (placeBytes 0 [0x3E, 0x42] base)).world.agenda = [.z80] ∧
      z80Free (pushTurn .z80 (placeBytes 0 [0x3E, 0x42] base)) = true ∧
      decodeZ80 (bytesAtPc (pushTurn .z80 (placeBytes 0 [0x3E, 0x42] base))) =
        .ok (.ldAN 0x42, [0, 0])) := by
  and_intros <;> decide +kernel

/-- A legal word, an illegal one, and a Z80 at bytes that begin no row of 46_injection.md R361. -/
theorem witness_HostWordsAlwaysComplete :
    (nextTurn (pushTurn (.host 0x08000000 {}) base)).1 = .host 0x08000000 {} ∧
    (nextTurn (pushTurn (.host 0xFFFFFFFF {}) base)).1 = .host 0xFFFFFFFF {} ∧
    decodeCommand 0xFFFFFFFF = .error (.illegalOp 0xFF) ∧
    (landed (step (pushTurn .z80 (placeBytes 0 [0x76] base)))).world.z80.rx = [0x76] := by
  and_intros <;> decide +kernel

/-- One slot left, and none. -/
theorem witness_AddSocketEffect :
    (TableOk two ∧ two.eng.numSockets + 1 = two.cfg.maxSockets) ∧
    (TableOk three ∧ three.eng.numSockets = three.cfg.maxSockets) := by
  and_intros <;> decide +kernel

/-- The lowest and the highest registered handle, and the first that is not. -/
theorem witness_SocketFlagCommandsEffect :
    TableOk three ∧ (0#8).toNat < three.eng.numSockets ∧ (2#8).toNat + 1 = three.eng.numSockets ∧
    three.eng.numSockets ≤ (3#8).toNat := by
  and_intros <;> decide +kernel

theorem witness_RequestsAreRecorded :
    TableOk three ∧ (2#8).toNat + 1 = three.eng.numSockets ∧
    (sockAt three 2).actionRequest = none ∧ (sockAt three 2).busMasterRequest = none ∧
    ((1 : BitVec 2) = 1 ∧ Pulse.reset = .reset) ∧ ((2 : BitVec 2) = 2 ∧ Pulse.nmi = .nmi) ∧
    ((3 : BitVec 2) = 3 ∧ Pulse.irq = .irq) ∧
    (TableOk (after (.requestAction 2 1 3) three) ∧
      (sockAt (after (.requestAction 2 1 3) three) 2).actionRequest ≠ none) ∧
    (TableOk (after (.requestBus 2 1) three) ∧
      (sockAt (after (.requestBus 2 1) three) 2).busMasterRequest ≠ none) ∧
    three.eng.numSockets ≤ (3#8).toNat := by
  and_intros <;> decide +kernel

/-- The first handle that is not registered, the first index past each table, one byte too many, no
mastership, a tracker that is off, the first mode past 2, the host as issuer, and requests that stand. -/
theorem witness_RefusedCommandsChangeNothing :
    three.eng.numSockets ≤ (3#8).toNat ∧
    bpSize .fast three.cfg ≤ 4 ∧ bpSize .slow three.cfg ≤ 16 ∧ three.eng.mastered = false ∧
    65536 < (carrying { len := 65537 } three).port.payload.len ∧
    (0 < (carrying { len := 1, buf := [0] } three).port.payload.len ∧
      0 < (carrying { len := 1, buf := [0] } three).port.payload.buf.length) ∧
    65536 < (carrying { buf := List.replicate 65537 0 } three).port.payload.buf.length ∧
    three.trk.enabled = false ∧
    ¬ imSettable (carrying { regs := { p2Snapshot with im := 3 } } three).port.payload.regs.im ∧
    three.port.issuer = .host ∧
    (sockAt (after (.requestAction 2 1 3) three) 2).actionRequest ≠ none ∧
    (sockAt (after (.requestBus 2 1) three) 2).busMasterRequest ≠ none ∧
    (mastering three).eng.mastered = true ∧
    ((acting .pending .nmi three).eng.act.status ≠ .none ∧
      (acting .pending .nmi three).eng.mastered = false) := by
  refine ⟨?_, ?_, ?_, ?_, ?_, ?_, ?_, ?_, ?_, ?_, ?_, ?_, ?_, ?_⟩
  case refine_7 => exact (List.length_replicate (n := 65537)).symm ▸ Nat.lt_succ_self 65536
  all_goals decide +kernel

/-- Refused commands, an illegal word, allowed ones with the payload at the port, and the two callbacks. -/
theorem witness_CallbackRefusals :
    decodeCommand ({ word := 0x08000000 } : CbCommand).word = .ok .serviceTick ∧
    decodeCommand ({ word := 0x0D000000 } : CbCommand).word = .ok .release ∧
    decodeCommand ({ word := 0x0E02FFFF } : CbCommand).word = .ok (.blockRead true false 0xFFFF) ∧
    decodeCommand ({ word := 0x0F030000 } : CbCommand).word = .ok (.blockWrite true true 0) ∧
    (decodeCommand ({ word := 0x01000000 } : CbCommand).word = .ok .addSocket ∧
      callbackMay true .addSocket = false) ∧
    decodeCommand ({ word := 0x00000000 } : CbCommand).word = .error (.illegalOp 0) ∧
    (callbackMay false (.setHold 1 true) = true ∧ callbackMay true (.blockRead true false 0xFFFF) = true ∧
      (carrying { len := 2, msg := "m" } two).port.payload.len =
        ({ word := 0x0E02FFFF, len := 2, msg := "m" } : CbCommand).len ∧
      (carrying { len := 2, msg := "m" } two).port.payload.msg = "m") ∧
    (let s := adding { waitReplies := [{ cmds := [{ word := 0x04000001 }], decision := .value 1 }]
                       doneReplies := [[{ word := 0x0E02FFFF, len := 2 }]] } base;
      (sockAt s 1).onWaitCycle =
        .script [{ cmds := [{ word := 0x04000001 }], decision := .value 1 }] ∧
      (sockAt s 1).onDone = .script [[{ word := 0x0E02FFFF, len := 2 }]]) := by
  and_intros <;> decide +kernel

/-- A presented cycle whose lines have settled. -/
def settled (f : CtrlFlags) (a : Addr) (d : Byte) : Presented :=
  { flags := f, addr := a, data := d, settle := [], byZ80 := false }

/-- A read that a decision answers, after three samples that are not valid; a memory read that none answers;
a memory write of the Z80's own; an I/O write; a boundary fetch at which the tracker begins a GET; a
write that a GET captures; and a fetch with a request standing. -/
theorem witness_TickServicesCycle :
    (let c : Presented := { settled 0x35 0x1000 0 with settle := [0x24, 0x24, 0x24] };
      let s := three.withWorld { three.world with present := some c };
      FreshWait c s ∧ Answering s ∧ MemoryOk s ∧ s.world.timeDraws = 0 :: 0 :: [0] ∧
      unsettled c + 1 = s.cfg.settleRetries ∧ NoActions (trackerTurn 0x1000 0 0x35 s).2 ∧
      byteOfDecision (mergeDecisions (decisionsAt 0x1000 0 0x35 s)) = some 0x22) ∧
    (let s := waiting 0x25 0xFFFF 0 base;
      FreshWait (settled 0x25 0xFFFF 0) s ∧ Answering s ∧ isMemRead (sixFlags 0x25) = true ∧
      (trackerTurn 0xFFFF 0 0x25 s).2.trk.pageOut = false ∧
      mergeDecisions (decisionsAt 0xFFFF 0 0x25 s) = .notDecoded) ∧
    (let c : Presented := { settled 0x26 0xFFFF 0x44 with byZ80 := true };
      let s := two.withWorld { two.world with present := some c };
      FreshWait c s ∧ Answering s ∧ isMemWrite (sixFlags 0x26) = true) ∧
    (let s := waiting 0x2A 0x00FE 0x44 two;
      FreshWait (settled 0x2A 0x00FE 0x44) s ∧ Answering s ∧ isRead (sixFlags 0x2A) = false) ∧
    (let s := waiting 0x35 0x0101 0 (tracking three);
      FreshWait (settled 0x35 0x0101 0) s ∧ Answering s ∧ MemoryOk s ∧
      (trackerTurn 0x0101 0 0x35 s).1 = .injectOpcode 0xF5 ∧
      (trackerTurn 0x0101 0 0x35 s).2.eng.wait.hold = false) ∧
    (let s := waiting 0x26 0x7FFF 0x12 (after .onWaitCycle (called 0x35 0x0101 0 (tracking base)));
      FreshWait (settled 0x26 0x7FFF 0x12) s ∧ Answering s ∧
      capAt (trackerTurn 0x7FFF 0x12 0x26 s).2.trk.cap 0 = (0x7FFF, 0x12)) ∧
    (let s := waiting 0x35 0x1000 0 (after (.requestAction 1 1 2) two);
      FreshWait (settled 0x35 0x1000 0) s ∧ Answering s ∧
      (sockAt (trackerTurn 0x1000 0 0x35 s).2 1).actionRequest = some (.nmi, 1)) := by
  and_intros <;> decide +kernel

/-- The hold hypothesis, for every data: the tracker off, and at a boundary. -/
theorem witness_TickServicesCycle_hold :
    (∀ data, (trackerTurn 0x1000 data 0x35 (waiting 0x35 0x1000 0 three)).2.eng.wait.hold = false) ∧
    (∀ data, (trackerTurn 0x0101 data 0x35
      (waiting 0x35 0x0101 0 (tracking three))).2.eng.wait.hold = false) :=
  ⟨fun _ => rfl, fun _ => rfl⟩

/-- The longest cycle; a total that wraps to 0 and one that does not. -/
theorem witness_CountersOfACycle :
    2 ^ 32 - 1 < 2 ^ 32 ∧
    ({ Counters.zero with total := 0xFFFFFFFF } : Counters).total.toNat + 1 = 2 ^ 32 ∧
    ({ Counters.zero with total := 0xFFFFFFFE } : Counters).total.toNat + 1 < 2 ^ 32 := by decide

/-- A cycle presented to a socket that asked for a hold. -/
def holding : State := waiting 0x35 0x2000 0 (adding (collaborator (.value 0x00) true) base)

/-- A collaborator's hold; and the tracker's, taken at a boundary, with a request standing (VW14). -/
theorem witness_TickKeepsHeldCycle :
    (FreshWait (settled 0x35 0x2000 0) holding ∧ Answering holding ∧ holding.eng.act.status = .none ∧
      isMemRead (sixFlags 0x35) = true ∧ holding.trk.pageOut = false) ∧
    (let s := waiting 0x35 0x0202 0 (tracking (after (.requestAction 1 1 2) two));
      let s1 := s.withTrk { s.trk with holdArmed := true };
      FreshWait (settled 0x35 0x0202 0) s1 ∧ Answering s1 ∧ s1.eng.wait.hold = false ∧
      (sockAt s1 1).actionRequest = some (.nmi, 1) ∧
      (trackerTurn 0x0202 0 0x35 s1).2.eng.wait.hold = true) := by
  and_intros <;> decide +kernel

theorem witness_TickKeepsHeldCycle_hold :
    (∀ data, (trackerTurn 0x2000 data 0x35 holding).2.eng.wait.hold = true) ∧
    (∀ data, (trackerTurn 0x0202 data 0x35 ((tracking base).withTrk
      { (tracking base).trk with holdArmed := true })).2.eng.wait.hold = true) :=
  ⟨fun _ => rfl, fun _ => rfl⟩

/-- VW10: the hold of a held cycle is dropped by the host. -/
def dropped : State := after (.setHold 1 false) (listing [0] [false] (after .serviceTick holding))

/-- A held read that a decision answers; one that none answers; a held memory write of the Z80's own; a held
I/O write. -/
theorem witness_HeldCycleCompletes :
    (MemoryOk dropped ∧ dropped.eng.wait.asserted = true ∧ dropped.eng.wait.held = true ∧
      dropped.eng.wait.hold = false ∧ dropped.world.present = some (settled 0x35 0x2000 0) ∧
      NoActions dropped ∧ dropped.world.timeDraws = [0] ∧
      isRead dropped.eng.wait.cur.flags = true ∧
      byteOfDecision dropped.eng.wait.cur.merged = some 0x00) ∧
    (let s := dropped.withEng { dropped.eng with wait := { dropped.eng.wait with
        cur := { dropped.eng.wait.cur with merged := .notDecoded } } };
      s.eng.wait.asserted = true ∧ s.eng.wait.held = true ∧ s.eng.wait.hold = false ∧
      s.trk.pageOut = false ∧ s.eng.wait.cur.merged = .notDecoded) ∧
    (let s := dropped.withWorld { dropped.world with
        present := some { settled 0x26 0xFFFF 0x44 with byZ80 := true } };
      MemoryOk s ∧ isMemWrite (sixFlags 0x26) = true ∧ s.trk.pageOut = false) ∧
    (let s := dropped.withWorld { dropped.world with present := some (settled 0x2A 0x00FE 0x44) };
      MemoryOk s ∧ isIo (sixFlags 0x2A) = true ∧ isWrite (sixFlags 0x2A) = true) := by
  and_intros <;> decide +kernel

/-- A held cycle, and a wait that is asserted and not held. -/
theorem witness_HeldCycleStays :
    ((after .serviceTick holding).eng.wait.asserted = true ∧
      (after .serviceTick holding).eng.wait.hold = true) ∧
    (let s := base.withEng { base.eng with wait := { base.eng.wait with asserted := true } };
      s.eng.wait.asserted = true ∧ s.eng.wait.held = false) := by
  and_intros <;> decide +kernel

/-- VW4: four samples of MREQ alone before a fetch, and before a memory write; and a cycle that gives no
other sample. -/
theorem witness_SettleTimeoutReleases :
    (∀ f ∈ [0x35#8, 0x26], let c : Presented := { settled f 0x1000 0x44 with
        settle := [0x24, 0x24, 0x24, 0x24] };
      let s := base.withWorld { base.world with present := some c };
      MemoryOk s ∧ s.eng.wait.asserted = false ∧ s.world.busackDraws.head? = some false ∧
      NoActions s ∧ s.cfg.settleRetries = unsettled c) ∧
    (isMemRead (sixFlags 0x35) = true ∧ isMemWrite (sixFlags 0x26) = true) ∧
    (let s := waiting 0x24 0x1000 0 base;
      NoActions s ∧ s.world.present = some (settled 0x24 0x1000 0) ∧
      validSettled (sixFlags 0x24) = false) := by
  and_intros <;> decide +kernel

/-- VW2: WAIT seen together with BUSACK. -/
def waitWithBusack : State := waiting 0x35 0x1000 0 (listing [0, 0, 0] [true] three)

/-- No wait; and WAIT together with BUSACK. -/
theorem witness_IdleTickChangesNothing :
    (three.eng.wait.asserted = false ∧ three.world.present = none ∧ NoActions three) ∧
    (waitWithBusack.eng.wait.asserted = false ∧ waitWithBusack.world.present.isSome = true ∧
      waitWithBusack.world.busackDraws.head? = some true ∧ NoActions waitWithBusack) := by
  and_intros <;> decide +kernel

/-- VW2: nothing is latched, no socket is called, and the cycle is still there. -/
theorem test_serviceTick_wait_with_busack :
    (after .serviceTick waitWithBusack).eng.wait.asserted = false ∧
    waitCalls (after .serviceTick waitWithBusack) = [] ∧
    (after .serviceTick waitWithBusack).world.present.isSome = true := by
  and_intros <;> decide +kernel

/-- An InjectOpcode after a Value and before another InjectOpcode; a Value in the last place; nothing. -/
theorem witness_MergeTakesFirstInjectThenFirstValue :
    ([Decision.value 1, .injectOpcode 2, .injectOpcode 3][1]? = some (.injectOpcode 2) ∧
      [Decision.value 1, .injectOpcode 2, .injectOpcode 3][0]? = some (.value 1)) ∧
    ([Decision.notDecoded, .value 4][1]? = some (.value 4) ∧
      [Decision.notDecoded, .value 4][0]? = some .notDecoded) ∧
    (∀ d ∈ [Decision.notDecoded, .notDecoded], d = .notDecoded) := by decide

/-- Socket 1's callback disables socket 2 and enables socket 3, which is registered last and disabled
(R176). -/
def switching : State :=
  let info := { collaborator (.value 0x11) false with
    waitReplies := [{ cmds := [{ word := 0x02020000 }, { word := 0x02030001 }], decision := .notDecoded }] }
  let s1 := listing [0, 0, 0] [false] (State.startOfDay { Params.vectors with maxSockets := 4 })
  adding { collaborator (.value 0x33) false with enabled := false }
    (adding (collaborator (.value 0x22) false) (adding info s1))

/-- The socket that is disabled before its turn is not called, and the one that is enabled is. -/
theorem test_fanOut_reads_enabled_at_the_turn :
    TableOk switching ∧
    (fanOut 0x1000 0 0x35 (handles switching) switching).1 =
      [.notDecoded, .notDecoded, .notDecoded, .value 0x33] ∧
    waitCalls (fanOut 0x1000 0 0x35 (handles switching) switching).2 =
      [.waitCycle 3 0x1000 0 0x35, .waitCycle 1 0x1000 0 0x35] := by
  and_intros <;> decide +kernel

/-- The tracker off, and the tracker at a boundary. -/
theorem witness_FanOutCallsInOrder :
    (Answering three ∧ enabledHandles three = [1, 2] ∧
      decisionsAt 0x1000 0 0x35 three = [.notDecoded, .value 0x11, .injectOpcode 0x22]) ∧
    (Answering (tracking three) ∧ enabledHandles (tracking three) = [0, 1, 2] ∧
      decisionsAt 0x0101 0 0x35 (tracking three) =
        [.injectOpcode 0xF5, .value 0x11, .injectOpcode 0x22]) := by
  and_intros <;> decide +kernel

theorem witness_ArbiterNoOps :
    (acting .asserted .reset three).eng.act.status ≠ .none ∧ (mastering three).eng.mastered = true ∧
    NoActions three ∧ three.eng.act.status ≠ .pending ∧ three.eng.act.status ≠ .asserted ∧
    (acting .asserted .none three).eng.act.action = .none ∧
    (acting .asserted .busRequest three).eng.act.action = .busRequest := by
  and_intros <;> decide +kernel

/-- Both requests of the highest handle, of which the IRQ comes first, and a BusRequest alone (VA4). -/
theorem witness_CheckPendingTakesLowest :
    (let s := after (.requestBus 2 2) (after (.requestAction 2 1 3) three);
      TableOk s ∧ s.eng.act.status = .none ∧ s.eng.mastered = false ∧ 2 < s.eng.numSockets ∧
      (∀ j, j < 2 → (sockAt s j).actionRequest = none ∧ (sockAt s j).busMasterRequest = none) ∧
      (sockAt s 2).actionRequest = some (.irq, 1)) ∧
    (let s := after (.requestBus 0 2) three;
      TableOk s ∧ (sockAt s 0).actionRequest = none ∧ (sockAt s 0).busMasterRequest = some 2) := by
  and_intros <;> decide +kernel

theorem witness_StartPendingAssertsPulse :
    ((acting .pending .reset two).eng.act.status = .pending ∧
      (acting .pending .reset two).eng.act.action = actionOfPulse .reset) ∧
    (acting .pending .nmi two).eng.act.action = actionOfPulse .nmi ∧
    (acting .pending .irq two).eng.act.action = actionOfPulse .irq := by
  and_intros <;> decide +kernel

/-- A pending BusRequest with the tracker's reason. -/
def wanting (reason : Byte) (s : State) : State :=
  let s1 := acting .pending .busRequest s;
  s1.withEng { s1.eng with act := { s1.eng.act with reason := reason } }

/-- The tracker's reason and another one. -/
theorem witness_BusRequestGranted :
    (let s := wanting 1 (listing [0, 0] [true] two);
      SocketsOk s ∧ s.eng.act.status = .pending ∧ s.eng.act.action = .busRequest ∧
      s.eng.mastered = false ∧ (awaitBusack s).1 = true ∧ s.eng.act.reason = mirrorReason) ∧
    (let s := wanting 0x40 (listing [0, 0] [true] two);
      SocketsOk s ∧ (awaitBusack s).1 = true ∧ s.eng.act.reason ≠ mirrorReason) := by
  and_intros <;> decide +kernel

theorem witness_BusRequestFails :
    (let s := wanting 1 (listing [0, 50] [false] two);
      SocketsOk s ∧ s.eng.act.status = .pending ∧ s.eng.act.action = .busRequest ∧
      s.eng.mastered = false ∧ (awaitBusack s).1 = false ∧ s.eng.act.reason = mirrorReason) ∧
    (let s := wanting 0x40 (listing [0, 50] [false] two);
      SocketsOk s ∧ (awaitBusack s).1 = false ∧ s.eng.act.reason ≠ mirrorReason) := by
  and_intros <;> decide +kernel

/-- 9 and 10 of 10 microseconds; and a Reset that ends during an injection. -/
theorem witness_AdvancePendingEnds :
    (let s := atTime 9 (acting .asserted .nmi two);
      SocketsOk s ∧ s.eng.act.status = .asserted ∧ s.eng.act.action = actionOfPulse .nmi ∧
      (now s).1 - s.eng.act.assertedAt < s.eng.act.durationUs) ∧
    (let s := atTime 10 (acting .asserted .nmi two);
      SocketsOk s ∧ s.eng.act.durationUs = (now s).1 - s.eng.act.assertedAt) ∧
    (let s := atTime 10 (acting .asserted .reset
        (after .onWaitCycle (called 0x35 0x0101 0x00 (tracking base))));
      SocketsOk s ∧ s.eng.act.durationUs = (now s).1 - s.eng.act.assertedAt ∧
      s.trk.state = .injecting) := by
  and_intros <;> decide +kernel

/-- A held cycle with an action that began at 0, at a time. -/
def stuck (st : ActionStatus) (a : BusAction) (t : Nat) : State :=
  let s1 := acting st a (listing [0, 0] [false] (after .serviceTick holding));
  atTime t (s1.withEng { s1.eng with act := { s1.eng.act with durationUs := 5000 } })

/-- VA5: 1000 of 1000 microseconds, and 1001. -/
theorem witness_TickTimesOutAction :
    (let s := stuck .pending .busRequest 1001;
      SocketsOk s ∧ s.eng.wait.asserted = true ∧ s.eng.wait.held = true ∧ s.eng.wait.hold = true ∧
      s.eng.act.status = .pending ∧ s.world.timeDraws = [0, 0] ∧
      s.cfg.actionTimeoutUs < s.world.clock + 0 + 0 - s.eng.act.startTime) ∧
    (let s := stuck .asserted .reset 1000;
      SocketsOk s ∧ s.eng.wait.asserted = true ∧ s.eng.wait.held = true ∧ s.eng.wait.hold = true ∧
      s.eng.act.status = .asserted ∧ s.eng.act.action = actionOfPulse .reset ∧
      s.world.timeDraws = [0, 0] ∧ s.world.clock + 0 - s.eng.act.assertedAt < s.eng.act.durationUs ∧
      s.cfg.actionTimeoutUs = s.world.clock + 0 + 0 - s.eng.act.startTime) := by
  and_intros <;> decide +kernel

/-- An idle tick's inputs: two BUSACK samples, the first for the detect step, and times. -/
def ticking (times : List Nat) (ack : Bool) (s : State) : State := listing times [false, ack] s

/-- An idle tick; actions asserted for 9 and 10 of 10 microseconds, and for more than 1000; a request of each
kind, with and without BUSACK (VW13, VA9, WE7); a pending action; the same after a fetch is serviced. -/
theorem witness_TickTakesAndEndsActions :
    (SocketsOk three ∧ three.eng.wait.asserted = false ∧ three.world.present = none ∧
      (afterWait three).eng.act.status = .none ∧ NoActions (afterAdvance three)) ∧
    (let s := after (.requestAction 1 1 2) waitWithBusack;
      SocketsOk s ∧ s.eng.wait.asserted = false ∧ s.world.busackDraws.head? = some true ∧
      (sockAt (afterAdvance s) 1).actionRequest = some (.nmi, 1)) ∧
    (let u := afterWait (ticking [9, 0] false (acting .asserted .nmi two));
      SocketsOk u ∧ u.eng.act.action = actionOfPulse .nmi ∧
      (now u).1 - u.eng.act.assertedAt + 1 = u.eng.act.durationUs ∧
      (now (now u).2).1 - u.eng.act.startTime ≤ u.cfg.actionTimeoutUs) ∧
    (let s := ticking [10, 0, 0] false (after (.requestAction 1 5 3) (acting .asserted .nmi two));
      (now (afterWait s)).1 - (afterWait s).eng.act.assertedAt = (afterWait s).eng.act.durationUs ∧
      (afterAdvance s).eng.wait.asserted = false ∧ (afterAdvance s).eng.act.status = .none ∧
      (sockAt (afterAdvance s) 1).actionRequest = some (.irq, 5)) ∧
    (let u := afterWait (ticking [0, 1001] false (stuck .asserted .reset 0));
      u.eng.act.status = .asserted ∧ (now u).1 - u.eng.act.assertedAt < u.eng.act.durationUs ∧
      (now (now u).2).1 - u.eng.act.startTime = u.cfg.actionTimeoutUs + 1) ∧
    (∀ ack ∈ [true, false], let s := ticking [0, 0, 50] ack (after (.requestBus 2 1) three);
      SocketsOk s ∧ (afterAdvance s).eng.mastered = false ∧ 2 < (afterAdvance s).eng.numSockets ∧
      (∀ j, j < 2 → (sockAt (afterAdvance s) j).actionRequest = none ∧
        (sockAt (afterAdvance s) j).busMasterRequest = none) ∧
      (sockAt (afterAdvance s) 2).actionRequest = none ∧
      (sockAt (afterAdvance s) 2).busMasterRequest = some 1 ∧
      (awaitBusack (after .checkPending (afterAdvance s))).1 = ack) ∧
    (∀ a ∈ [BusAction.reset, .nmi, .irq, .busRequest],
      (let u := afterWait (ticking [1000, 0] false (acting .pending a two));
        u.eng.act.status = .pending ∧
        (now u).1 - u.eng.act.startTime = u.cfg.actionTimeoutUs) ∧
      (let u := afterWait (ticking [1001, 0] false (acting .pending a two));
        u.eng.act.status = .pending ∧
        (now u).1 - u.eng.act.startTime = u.cfg.actionTimeoutUs + 1)) ∧
    (let s := ticking [0, 0] false (acting .pending .irq two);
      (afterAdvance s).eng.wait.asserted = false ∧ (afterAdvance s).eng.act.status = .pending) ∧
    (let s := waiting 0x35 0x1000 0 (listing [0, 0, 0, 0] [false]
        (after (.requestAction 1 1 2) (atTime 200 two)));
      SocketsOk s ∧ (afterWait s).world.present = none ∧
      (afterAdvance s).eng.wait.asserted = false ∧
      (sockAt (afterAdvance s) 1).actionRequest = some (.nmi, 1) ∧
      (after .serviceTick s).eng.act.assertedAt = 200 ∧ (after .serviceTick s).eng.lineNmi = true) := by
  and_intros <;> decide +kernel

/-- No BUSACK until time is up; a Z80 in a wait; BUSACK at the second poll, 49 of 50 microseconds in. -/
theorem witness_PollLoopEndsByTime :
    (awaitBusack (listing [0, 50] [false] two)).1 = false ∧ inWait holding = true ∧
    (let s := listing (0 :: [49] ++ [7]) (List.replicate 1 false ++ true :: [false]) two;
      inWait s = false ∧ [49].length = 1 ∧ [49].sum < s.cfg.busackTimeoutUs) := by
  and_intros <;> decide +kernel

theorem witness_RequestAndTakeEffect :
    (two.eng.mastered = false ∧ two.eng.act.status = .none) ∧
    (awaitBusack (listing [0] [true] two)).1 = true ∧
    (awaitBusack (listing [0, 50] [false] two)).1 = false := by
  and_intros <;> decide +kernel

theorem witness_ReleaseEffect :
    (mastering two).eng.mastered = true ∧ two.eng.mastered = false := by
  and_intros <;> decide +kernel

/-- No byte; the most bytes under mastership; two bytes of I/O. -/
theorem witness_BlockReadReturnsBytes :
    (carrying { len := 0 } two).port.payload.len = 0 ∧
    ((carrying { len := 65536 } (mastering two)).port.payload.len ≤ 65536 ∧
      (carrying { len := 65536 } (mastering two)).eng.mastered = true) ∧
    (let s := carrying { len := 2 } (mastering two);
      s.eng.mastered = true ∧ [0x5A#8, 0xA5].length = s.port.payload.len ∧
      s.world.byteDraws = [0x5A, 0xA5] ++ []) := by
  and_intros <;> decide +kernel

/-- Two bytes, one beside them that is not written, and no byte without mastership. -/
theorem witness_BlockWriteStoresBytes :
    (let s := carrying { buf := [0xA5, 0x5A] } (mastering two);
      MemoryOk s ∧ s.port.payload.buf.length ≤ 65536 ∧ s.eng.mastered = true ∧
      s.port.payload.buf[1]? = some 0x5A ∧
      (∀ k, k < s.port.payload.buf.length → (0x0001#16 : Addr) ≠ 0xFFFF + BitVec.ofNat 16 k)) ∧
    (MemoryOk two ∧ two.port.payload.buf = [] ∧ two.eng.mastered = false) := by
  and_intros <;> decide +kernel

theorem witness_AutoTransferGivesBusBack :
    (let s := carrying { len := 65536, buf := [1] } (listing [0] [true] two);
      MemoryOk s ∧ s.eng.mastered = false ∧ s.eng.act.status = .none ∧ 0 < s.port.payload.len ∧
      s.port.payload.len ≤ 65536 ∧ 0 < s.port.payload.buf.length ∧
      s.port.payload.buf.length ≤ 65536 ∧ (awaitBusack s).1 = true) ∧
    (let s := carrying { len := 2, buf := [1] } (listing [0] [true] two);
      MemoryOk s ∧ [0x5A#8, 0xA5].length = s.port.payload.len ∧
      s.world.byteDraws = [0x5A, 0xA5] ++ [] ∧ (awaitBusack s).1 = true) ∧
    (let s := carrying { len := 1, buf := [1] } (listing [0, 50] [false] two);
      MemoryOk s ∧ s.eng.mastered = false ∧ s.eng.act.status = .none ∧ (awaitBusack s).1 = false) := by
  and_intros <;> decide +kernel

/-- A write of two bytes that wraps, and the read of them. -/
theorem witness_BlockRoundTrip :
    let s := carrying { buf := [0xA5, 0x5A] } (listing [0, 0] [true] two);
    let t := after (.blockWrite true false 0xFFFF) s;
    let u := carrying { len := 2 } (listing [0, 0] [true] t);
    let v := after (.blockRead true false 0xFFFF) u;
    MemoryOk s ∧ exec (.blockWrite true false 0xFFFF) s = .next t ∧ t.port.result = okNone ∧
    u.world.mem = t.world.mem ∧ u.port.payload.len = s.port.payload.buf.length ∧
    exec (.blockRead true false 0xFFFF) u = .next v ∧
    v.port.result = .ok (.buffer [0xA5, 0x5A]) :=
  ⟨by decide +kernel, rfl, by decide +kernel, rfl, by decide +kernel, rfl, by decide +kernel⟩

/-- The last entry of each table, and the first index past it. -/
theorem witness_BreakpointCommandsEffect :
    TableOk three ∧ 3 + 1 = bpSize .fast three.cfg ∧ 15 + 1 = bpSize .slow three.cfg ∧
    (bpTable .slow three.bp)[15]? = some Breakpoint.blank ∧
    bpSize .fast three.cfg ≤ 4 ∧ bpSize .slow three.cfg ≤ 16 := by
  and_intros <;> decide +kernel

/-- An injection under way: the tracker after the boundary fetch of Program P1. -/
def injecting : State := after .onWaitCycle (called 0x35 0x0101 0x00 (tracking base))

/-- Its tracker at another place of the sequence. -/
def injectingAt (cursor wr : Nat) (disable : Bool) : State :=
  injecting.withTrk { injecting.trk with cursor := cursor, wrOrdinal := wr, disablePending := disable }

theorem witness_TrkEnableEffect :
    (TableOk (injectingAt 10 5 true) ∧ (injectingAt 10 5 true).trk.disablePending = true) ∧
    (TableOk (tracking base) ∧ (tracking base).trk.disablePending = false ∧
      (tracking base).trk.enabled = true) ∧
    (TableOk base ∧ base.trk.disablePending = false ∧ base.trk.enabled = false) := by
  and_intros <;> decide +kernel

theorem witness_TrkDisableEffect :
    (SocketsOk base ∧ base.trk.enabled = false) ∧
    (SocketsOk injecting ∧ injecting.trk.enabled = true ∧ injecting.trk.state = .injecting) ∧
    (SocketsOk (tracking base) ∧ (tracking base).trk.enabled = true ∧
      (tracking base).trk.state ≠ .injecting) := by
  and_intros <;> decide +kernel

theorem witness_TrkControlCommandsEffect :
    SocketsOk (carrying { regs := p2Snapshot } (tracking base)) ∧
    (carrying { regs := p2Snapshot } (tracking base)).trk.enabled = true ∧
    imSettable (carrying { regs := p2Snapshot } (tracking base)).port.payload.regs.im ∧
    (SocketsOk two ∧ two.trk.enabled = false) ∧
    ¬ imSettable (carrying { regs := { p2Snapshot with im := 3 } } two).port.payload.regs.im := by
  and_intros <;> decide +kernel

/-- The tracker at a fetch, with one field of it changed. -/
def atFetch (f : Tracker → Tracker) : State :=
  called 0x35 0x0202 0xCB ((tracking base).withTrk (f { (tracking base).trk with getRequested := false }))

/-- Off; not a fetch; not a boundary; a hold armed; a SET asked for; a GET asked for; nothing; a break. -/
theorem witness_OnWaitCycleAtFetch :
    (let s := called 0x35 0x0202 0 base;
      s.port.issuer = .engine ∧ s.trk.state ≠ .injecting ∧ TableOk s ∧ s.trk.enabled = false) ∧
    (let s := called 0x25 0x5000 0 (tracking base);
      TableOk s ∧ s.trk.state ≠ .injecting ∧ isFetch s.port.payload.flags = false) ∧
    (let s := atFetch (fun t => { t with hist0 := true });
      TableOk s ∧ s.port.issuer = .engine ∧ s.trk.state ≠ .injecting ∧ s.trk.enabled = true ∧
      isFetch s.port.payload.flags = true ∧ checkForBreak 0x0202 0x35 s = none ∧ s.trk.hist0 = true) ∧
    (let s := atFetch (fun t => { t with holdArmed := true });
      TableOk s ∧ s.trk.hist0 = false ∧ s.trk.holdArmed = true) ∧
    (let s := atFetch (fun t => { t with setRequest := some p2Snapshot });
      TableOk s ∧ s.trk.hist0 = false ∧ s.trk.holdArmed = false ∧
      s.trk.setRequest = some p2Snapshot) ∧
    (let s := atFetch (fun t => { t with getRequested := true });
      TableOk s ∧ s.trk.hist0 = false ∧ s.trk.holdArmed = false ∧ s.trk.setRequest = none ∧
      s.trk.getRequested = true) ∧
    (let s := atFetch id;
      TableOk s ∧ s.trk.hist0 = false ∧ s.trk.holdArmed = false ∧ s.trk.setRequest = none ∧
      s.trk.getRequested = false ∧ s.trk.stepInto = false ∧ checkForBreak 0x0202 0x35 s = none) ∧
    (let s := after (.bpSet .fast 3 0x0202) (atFetch id);
      TableOk s ∧ s.trk.hist0 = false ∧ s.trk.holdArmed = false ∧ s.trk.setRequest = none ∧
      checkForBreak 0x0202 0x35 s = some (.fast, 3, "")) := by
  and_intros <;> decide +kernel

/-- The second byte, the five computed ones and the last but one; the last byte, with and without a disable;
the first write, and the 23rd; a write in a SET; an I/O read, and a memory cycle with RD and WR. -/
theorem witness_OnWaitCycleInjects :
    (∀ k ∈ [1, 41, 45, 46, 48, 49, 50], let s := called 0x25 0x0105 0 (injectingAt k 23 false);
      SocketsOk s ∧ s.port.issuer = .engine ∧ s.trk.state = .injecting ∧
      isMemRead s.port.payload.flags = true ∧ s.trk.cursor + 1 < s.trk.seq.length) ∧
    (∀ k ∈ [1, 41, 45, 46, 48, 49, 50],
      SuppliedByte (injectingAt k 23 false).trk (nextInjectByte (injectingAt k 23 false).trk)) ∧
    (TrackerOk (injectingAt 1 23 false) ∧ TrackerOk (injectingAt 41 23 false) ∧
      TrackerOk (injectingAt 50 23 false)) ∧
    (let s := called 0x25 0x0132 0 (injectingAt 51 23 false);
      TrackerOk s ∧ s.trk.cursor + 1 = s.trk.seq.length ∧ s.trk.disablePending = false ∧
      InjectionGood s.trk) ∧
    (let s := called 0x25 0x0132 0 (injectingAt 51 23 true);
      SocketsOk s ∧ TrackerOk s ∧ s.trk.cursor + 1 = s.trk.seq.length ∧ s.trk.disablePending = true) ∧
    (let s := called 0x26 0x7FF6 0xCC (injectingAt 40 22 false);
      TrackerOk s ∧ isMemWrite s.port.payload.flags = true ∧ s.trk.seqKind = .get ∧
      s.trk.wrOrdinal = 22 ∧ (sockAt s 0).busMasterRequest = none) ∧
    (let s := called 0x26 0x7FFF 0x12 (injectingAt 1 0 false);
      TrackerOk s ∧ isMemWrite s.port.payload.flags = true ∧ s.trk.wrOrdinal ≠ 22) ∧
    (let s := called 0x26 0x7FFF 0x12 (after .onWaitCycle
        (atFetch (fun t => { t with setRequest := some p2Snapshot })));
      TrackerOk s ∧ s.port.issuer = .engine ∧ s.trk.state = .injecting ∧ s.trk.seqKind = .set) ∧
    (∀ f ∈ [0x29#8, 0x27], let s := called f 0x00FE 0 (injectingAt 1 0 false);
      SocketsOk s ∧ s.trk.state = .injecting ∧ isMemRead s.port.payload.flags = false ∧
      isMemWrite s.port.payload.flags = false) := by
  and_intros <;> decide +kernel

theorem witness_OnBusActionCompleteEffect :
    (let s := completed .reset 0x22 .ok injecting;
      s.port.issuer = .engine ∧ SocketsOk s ∧ TrackerOk s ∧ s.port.payload.action = .reset) ∧
    (let s := completed .reset 0x22 .ok (injectingAt 10 5 true);
      SocketsOk s ∧ TrackerOk s ∧ s.trk.state = .injecting ∧ s.trk.disablePending = true) ∧
    (let s := completed .nmi 0x22 .ok injecting;
      SocketsOk s ∧ TrackerOk s ∧ s.port.payload.action = .nmi) ∧
    (let s := completed .busRequest 0x01 .ok (mastering two);
      SocketsOk s ∧ TrackerOk s ∧ s.port.payload.reason = 0x01 ∧ s.eng.mastered = true) ∧
    (let s := completed .busRequest 0x01 .busRequestFailed two;
      SocketsOk s ∧ TrackerOk s ∧ s.port.payload.outcome ≠ .ok) ∧
    (let s := completed .busRequest 0x01 .ok two;
      SocketsOk s ∧ TrackerOk s ∧ s.port.payload.outcome = .ok ∧ s.eng.mastered = false) ∧
    (let s := completed .busRequest 0x40 .ok (mastering two);
      SocketsOk s ∧ TrackerOk s ∧ s.port.payload.reason ≠ 0x01) := by
  and_intros <;> decide +kernel

/-- A free Z80, for the statements about whole Z80 instructions. -/
theorem witness_ZRegisterInstructions : z80Free p1 = true ∧ p1.world.z80.regs = p1Regs := by
  and_intros <;> decide +kernel

theorem witness_ZStores : z80Free p1 = true ∧ p1.world.z80.regs = p1Regs ∧ MemoryOk p1 := by
  and_intros <;> decide +kernel

theorem witness_ZStackInstructions : z80Free p1 = true ∧ p1.world.z80.regs = p1Regs ∧ MemoryOk p1 := by
  and_intros <;> decide +kernel

/-- Each way to be off the bus; a fetch that waits, at every place of the bytes it covers; and the next byte
of a Z80 that does not wait. -/
theorem witness_ZWaitsAndHolds :
    Instr.pushAf.isZ80 = true ∧ (mastering p1).eng.mastered = true ∧
    (after .startPending (acting .pending .reset p1)).eng.lineReset = true ∧
    (waiting 0x35 0x0100 0 p1).world.present.isSome = true ∧
    (after .serviceTick holding).eng.wait.asserted = true ∧
    (∀ rx ∈ [[], [0xCB#8], [0xDD], [0xED], [0xFD], [0xDD, 0xCB], [0xFD, 0xCB], [0xDD, 0xCB, 5],
        [0xFD, 0xCB, 5]], let s := tracking (fetching rx 0 p1);
      offBus s = false ∧ s.eng.waitGenMem = true ∧ s.world.z80.rx = rx ∧ s.world.z80.wr = 0) ∧
    (∀ rx ∈ [[0xCB#8], [0xDD], [0xFD], [0xED], [0xDD, 0xCB], [0xFD, 0xCB], [0xDD, 0xCB, 5],
        [0xFD, 0xCB, 5]], let s := fetching rx 0xCB p1;
      offBus s = false ∧ s.eng.waitGenMem = false ∧ s.trk.pageOut = false ∧ s.world.z80.rx = rx ∧
      memRead s.world.z80.regs.pc s = 0xCB) := by
  and_intros <;> decide +kernel

theorem witness_ZCyclesAddUpToInstruction :
    z80Free (placeBytes 0x0100 [0xED, 0x53, 0x34, 0x12] p1) = true ∧
    decodeZ80 (bytesAtPc (placeBytes 0x0100 [0xED, 0x53, 0x34, 0x12] p1)) =
      .ok (.ldMemDe 0x1234, []) ∧
    (planOf (.ldMemDe 0x1234)).isSome = true := by
  and_intros <;> decide +kernel

/-- The three modes a SET may ask for. -/
theorem witness_SetLoadsRegisters : imSettable 0 ∧ imSettable 1 ∧ imSettable p2Snapshot.im := by decide

/-- Program P2's SET, on Program P1's Z80. -/
theorem witness_RegisterRoundTrip :
    imSettable p2Snapshot.im ∧
    (z80Feed 0 (setTemplate p2Snapshot) (z80Idle p1Regs)).2 =
      z80Idle (z80Feed 0 (setTemplate p2Snapshot) (z80Idle p1Regs)).2.regs := by
  and_intros <;> decide +kernel

/-- A step of a host command from a state that meets the invariants. -/
theorem witness_StepKeepsMemoryCanonical :
    MemoryOk (pushTurn (.host 0x05000703 {}) three) ∧
    step (pushTurn (.host 0x05000703 {}) three) =
      .next (landed (step (pushTurn (.host 0x05000703 {}) three))) :=
  ⟨by decide +kernel, rfl⟩

theorem witness_StepKeepsSocketsAndAggregates :
    SocketsOk (pushTurn (.host 0x01000000 {}) two) ∧
    step (pushTurn (.host 0x01000000 {}) two) =
      .next (landed (step (pushTurn (.host 0x01000000 {}) two))) :=
  ⟨by decide +kernel, rfl⟩

theorem witness_StepKeepsBusOwnership :
    BusOwnershipOk (pushTurn (.host 0x0D000000 {}) (mastering two)) ∧
    step (pushTurn (.host 0x0D000000 {}) (mastering two)) =
      .next (landed (step (pushTurn (.host 0x0D000000 {}) (mastering two)))) :=
  ⟨by decide +kernel, rfl⟩

theorem witness_StepKeepsTrackerCoherent :
    TrackerOk (pushTurn (.host 0x10000000 {}) injecting) ∧
    step (pushTurn (.host 0x10000000 {}) injecting) =
      .next (landed (step (pushTurn (.host 0x10000000 {}) injecting))) :=
  ⟨by decide +kernel, rfl⟩

theorem witness_StepKeepsWaitAndTime :
    WaitOk (pushTurn (.host 0x08000000 {}) holding) ∧
    step (pushTurn (.host 0x08000000 {}) holding) =
      .next (landed (step (pushTurn (.host 0x08000000 {}) holding))) :=
  ⟨by decide +kernel, rfl⟩

/-- The least parameters that the constraints allow. -/
theorem witness_StartOfDayState :
    Params.ok { maxSockets := 1, settleRetries := 1, busackTimeoutUs := 0, actionTimeoutUs := 0
                nFastBp := 1, nSlowBp := 1, serviceMode := .timer } ∧ Params.vectors.ok := by decide

/-- A tick of the tracker at a boundary fetch, which begins a GET; and a disable of a tracker that is on. -/
theorem witness_InjectingOnlyAtBoundaryIdleOnlyByDisable :
    (let s := pushTurn (.host 0x08000000 {}) (waiting 0x35 0x0101 0 (tracking base));
      TrackerOk s ∧ TableOk s ∧ s.trk.state ≠ .injecting ∧
      (landed (step s)).trk.state = .injecting) ∧
    (let s := pushTurn (.host 0x10000000 {}) (tracking base);
      TrackerOk s ∧ TableOk s ∧ s.trk.state ≠ .idle ∧ (landed (step s)).trk.state = .idle) := by
  and_intros <;> decide +kernel

/-- A write of the Z80 while memory is paged out. -/
theorem witness_PagedOutMemoryIsUntouched :
    (waiting 0x26 0x4000 0x77 injecting).trk.pageOut = true ∧
    (let s := p1.withTrk { p1.trk with pageOut := true };
      s.trk.pageOut = true ∧ z80Turn s = .next (landed (z80Turn s))) :=
  ⟨by decide +kernel, by decide +kernel, rfl⟩

end Sys2Proof.Machine
end

section
/-! SUPPORT. One step of the machine: which move it makes, and that it runs the instruction that the move's
word or bytes decode to (20_memory.md R89, 30_encoding.md R104). -/

namespace Sys2Proof.Machine

/-- The head of the agenda is the next move. -/
theorem step_of_agenda {s : State} {t : Turn} {ts : List Turn} (h : s.world.agenda = t :: ts) :
    step s = takeTurn t (s.withWorld { s.world with agenda := ts }) := by
  simp [step, nextTurn, h]

/-- A move put at the head of the agenda is the next one, and then the agenda is as before. -/
theorem step_pushTurn (t : Turn) (s : State) : step (pushTurn t s) = takeTurn t s :=
  step_of_agenda rfl

theorem hostTurn_of_decode {w : Word32} {i : Instr} (h : decodeCommand w = .ok i) (p : Payload)
    (s : State) : hostTurn w p s = exec i (atPort p s) := by
  simp [hostTurn, h]

theorem z80Turn_of_decode {s : State} {i : Instr} {rest : List Byte} (hf : z80Free s = true)
    (h : decodeZ80 (bytesAtPc s) = .ok (i, rest)) : z80Turn s = exec i s := by
  simp [z80Turn, hf, h]

/-- A word that is a command is stored as the host's next command, with an empty payload. -/
theorem withFetchWord_of_decode {w : Word32} {i : Instr} (h : decodeCommand w = .ok i) (s : State) :
    s.withFetchWord 32 w.toNat = pushTurn (.host w {}) s := by
  simp [State.withFetchWord, h]

/-- Settles O5: the move at the head of the agenda is a host word, a move of a free Z80, or the stored
command word, and each of the three decodes. -/
theorem stepRunsDecodedInstruction : Obligations.StepRunsDecodedInstruction := by
  refine ⟨fun s w p ts i ha hd => ?_, fun s ts i rest ha hf hd => ?_, fun s w i hd => ?_⟩
  · rw [step_of_agenda ha]
    exact hostTurn_of_decode hd p _
  · rw [step_of_agenda ha]
    exact z80Turn_of_decode hf hd
  · rw [withFetchWord_of_decode hd, step_pushTurn]
    exact hostTurn_of_decode hd {} s

end Sys2Proof.Machine
end

section
/-! SUPPORT. Moves of the world: the steps of the environment and of the Z80, which leave the block alone,
never turn time back and never take a presented cycle away (00_scope.md R8, R12). -/

namespace Sys2Proof.Machine

/-- Only the world differs; time did not run back, and a cycle that was presented still is one. -/
structure WorldMove (s t : State) : Prop where
  block : SameBlock s t
  clock : s.world.clock ≤ t.world.clock
  present : s.world.present.isSome = true → t.world.present.isSome = true

theorem WorldMove.refl (s : State) : WorldMove s s := ⟨SameBlock.refl s, le_refl _, id⟩

theorem WorldMove.trans {s t u : State} (h : WorldMove s t) (g : WorldMove t u) : WorldMove s u :=
  ⟨h.block.trans g.block, h.clock.trans g.clock, fun hp => g.present (h.present hp)⟩

theorem WorldMove.eng {s t : State} (h : WorldMove s t) : t.eng = s.eng := by
  obtain ⟨-, heng, -⟩ := h.block
  exact heng

/-- A move of the world that touches neither the clock nor the presented cycle. -/
theorem withWorld_worldMove {s : State} {w : World} (hc : w.clock = s.world.clock)
    (hp : w.present = s.world.present) : WorldMove s (s.withWorld w) :=
  ⟨withWorld_sameBlock s w, hc.ge, fun h => by rwa [State.withWorld_world, hp]⟩

/-- Two states with the same block differ by a write of the world. -/
theorem SameBlock.eq_withWorld {s t : State} (h : SameBlock s t) : t = s.withWorld t.world := by
  obtain ⟨hcfg, heng, htrk, hbp, hport⟩ := h
  cases t
  simp_all [State.withWorld]

/-! ### Draws -/

theorem OnlyTime.worldMove {s t : State} (h : OnlyTime s t) : WorldMove s t := by
  obtain ⟨hcfg, heng, htrk, hbp, hport, hworld, hclock⟩ := h
  simp only [SameWorldButTime] at hworld
  have hp : t.world.present = s.world.present := by rw [← hworld]
  exact ⟨⟨hcfg, heng, htrk, hbp, hport⟩, hclock, by rw [hp]; exact id⟩

theorem now_worldMove (s : State) : WorldMove s (now s).2 := (now_onlyTime s).worldMove

theorem sampleBusack_worldMove (s : State) : WorldMove s (sampleBusack s).2 :=
  (sampleBusack_onlyTime s).worldMove

theorem drawByte_worldMove (s : State) : WorldMove s (drawByte s).2 :=
  ⟨drawByte_sameBlock s, by simp, by simp⟩

theorem drawSettle_worldMove (s : State) : WorldMove s (drawSettle s).2 :=
  ⟨drawSettle_sameBlock s, by simp, by simp⟩

theorem drawDiag_worldMove (s : State) : WorldMove s (drawDiag s).2 :=
  ⟨⟨by simp, by simp, by simp, by simp, by simp⟩, by simp, by simp⟩

theorem nextTurn_worldMove (s : State) : WorldMove s (nextTurn s).2 := by
  unfold nextTurn
  split <;> exact withWorld_worldMove rfl rfl

/-- A sample of the control lines takes at most one of the presented cycle's unsettled values. -/
theorem sampleCtrl_worldMove (s : State) : WorldMove s (sampleCtrl s).2 := by
  have hset : ∀ c, WorldMove s (s.withWorld { s.world with present := some c }) :=
    fun c => ⟨withWorld_sameBlock _ _, le_refl _, fun _ => rfl⟩
  unfold sampleCtrl
  split
  · exact WorldMove.refl s
  · split
    · split
      · exact hset _
      · exact hset _
    · exact WorldMove.refl s

theorem settleLoop_worldMove (n : Nat) (s : State) : WorldMove s (settleLoop n s).2 := by
  induction n generalizing s with
  | zero => exact WorldMove.refl s
  | succ n ih =>
    simp only [settleLoop]
    split
    · exact sampleCtrl_worldMove s
    · exact (sampleCtrl_worldMove s).trans (ih _)

theorem sampleData_worldMove (s : State) : WorldMove s (sampleData s).2 := by
  unfold sampleData
  split
  · exact drawByte_worldMove s
  · split
    · split
      · exact WorldMove.refl s
      · exact drawByte_worldMove s
    · exact WorldMove.refl s

/-! ### Block transfers -/

theorem readBytes_worldMove (io : Bool) (addr : Addr) (k n : Nat) (s : State) :
    WorldMove s (readBytes io addr k n s).2 := by
  induction n generalizing k s with
  | zero => exact WorldMove.refl s
  | succ n ih =>
    cases io with
    | false => exact ih (k + 1) s
    | true => exact (drawByte_worldMove s).trans (ih (k + 1) _)

theorem writeBytes_worldMove (io : Bool) (addr : Addr) (k : Nat) (bs : List Byte) (s : State) :
    WorldMove s (writeBytes io addr k bs s) := by
  induction bs generalizing k s with
  | nil => exact WorldMove.refl s
  | cons b bs ih =>
    refine WorldMove.trans ?_ (ih (k + 1) _)
    cases io <;> exact withWorld_worldMove rfl rfl

/-! ### The Z80's cycles -/

theorem z80Step_worldMove (f : Z80 → Z80) (s : State) : WorldMove s (z80Step f s) := by
  obtain ⟨z, d, h⟩ := z80Step_cases f s
  rw [h]
  exact withWorld_worldMove rfl rfl

theorem received_worldMove (driven : Option Byte) (c : Presented) (s : State) :
    WorldMove s (received driven c s).2 := by
  unfold received
  split
  · exact WorldMove.refl s
  · split
    · exact WorldMove.refl s
    · exact drawByte_worldMove s

theorem completeCycle_worldMove (driven : Option Byte) (c : Presented) (s : State) :
    WorldMove s (completeCycle driven c s).2 := by
  have hz : ∀ f u, WorldMove u (if c.byZ80 then z80Step f u else u) := by
    intro f u
    split
    · exact z80Step_worldMove f u
    · exact WorldMove.refl u
  unfold completeCycle
  split
  · exact (received_worldMove driven c s).trans (hz _ _)
  · split
    · refine WorldMove.trans ?_ (hz _ _)
      split
      · exact WorldMove.refl s
      · exact withWorld_worldMove rfl rfl
    · split
      · exact withWorld_worldMove rfl rfl
      · exact WorldMove.refl s

theorem startCycle_worldMove (f : CtrlFlags) (a : Addr) (d : Byte) (b : Bool) (s : State) :
    WorldMove s (startCycle f a d b s) := by
  unfold startCycle
  split
  · exact (drawSettle_worldMove s).trans ⟨withWorld_sameBlock _ _, le_refl _, fun _ => rfl⟩
  · exact completeCycle_worldMove _ _ _

theorem outsideMove_worldMove (m : Z80Move) (s : State) : WorldMove s (outsideMove m s) := by
  cases m with
  | cycle f a d =>
    simp only [outsideMove, foreignCycle]
    split
    · exact WorldMove.refl s
    · exact startCycle_worldMove _ _ _ _ _
  | become r =>
    simp only [outsideMove, foreignRegs]
    split
    · exact WorldMove.refl s
    · exact withWorld_worldMove rfl rfl

theorem z80Cycle_worldMove (s : State) : WorldMove s (z80Cycle s) := by
  obtain ⟨-, h⟩ | ⟨-, f, a, d, h⟩ | ⟨-, h⟩ | ⟨-, m, h⟩ := z80Cycle_cases s <;> rw [h]
  · exact WorldMove.refl s
  · exact startCycle_worldMove _ _ _ _ _
  · exact z80Step_worldMove _ _
  · refine WorldMove.trans ?_ (outsideMove_worldMove _ _)
    exact withWorld_worldMove rfl rfl

/-- The Z80 rows of the table are those that have a plan (46_injection.md R361). -/
theorem planOf_isSome (i : Instr) : (planOf i).isSome = i.isZ80 := by cases i <;> rfl

/-- A Z80 instruction runs whole or makes one bus cycle; either is a move of the world. -/
theorem exec_z80_worldMove {i : Instr} (hi : i.isZ80 = true) {s t : State} (h : exec i s = .next t) :
    WorldMove s t := by
  obtain ⟨p, hp⟩ := Option.isSome_iff_exists.mp ((planOf_isSome i).trans hi)
  rw [exec_of_planOf hp] at h
  cases h
  split
  · exact withWorld_worldMove rfl rfl
  · exact z80Cycle_worldMove s

/-- The release of a wait is no move of the world, since it takes the presented cycle away, but time does
not run back. -/
theorem releaseWait_clock (driven : Option Byte) (s : State) :
    s.world.clock ≤ (releaseWait driven s).world.clock := by
  unfold releaseWait
  split
  · exact le_refl _
  · rename_i c hc
    have h := (completeCycle_worldMove driven c (s.withWorld { s.world with present := none })).clock
    split <;> (rename_i heq; rw [heq] at h; exact h)

end Sys2Proof.Machine
end

section
/-! SUPPORT. What the callbacks of all sockets keep (40_socket_table.md R147, 45_tracker.md R320, R328): a
property that survives the few elementary changes a callback is made of survives a fan-out and a
notification. -/

namespace Sys2Proof.Machine

/-- Two slots with the same registration and the same owner, the tracker or a collaborator
(70_reset_and_hazards.md R451). -/
structure SameOwner (k k' : Socket) : Prop where
  registered : k'.registered = k.registered
  onWait : k'.onWaitCycle = .tracker ↔ k.onWaitCycle = .tracker
  onDone : k'.onDone = .tracker ↔ k.onDone = .tracker

/-- Two slots that count the same in the table and its aggregates (40_socket_table.md R146). -/
structure SameSlot (k k' : Socket) : Prop extends SameOwner k k' where
  enabled : k'.enabled = k.enabled
  hold : k'.hold = k.hold
  waitOnMemory : k'.waitOnMemory = k.waitOnMemory
  waitOnIo : k'.waitOnIo = k.waitOnIo

theorem SameOwner.refl (k : Socket) : SameOwner k k := ⟨rfl, .rfl, .rfl⟩

theorem SameSlot.refl (k : Socket) : SameSlot k k := ⟨SameOwner.refl k, rfl, rfl, rfl, rfl⟩

/-- A property of states that every elementary change made inside a callback keeps: a move of the world, a
write of the tracker that leaves its handle, one of the breakpoint tables that leaves their sizes, a
change of a socket's flags, and one of a slot's requests or scripts. -/
structure CallbackStable (P : State → Prop) : Prop where
  move : ∀ {s t}, P s → WorldMove s t → P t
  trk : ∀ {s} k, P s → k.socket = s.trk.socket → P (s.withTrk k)
  bp : ∀ {s} b, P s → b.fast.length = s.bp.fast.length → b.slow.length = s.bp.slow.length →
    P (s.withBp b)
  flags : ∀ {s} h f, P s → (∀ k, SameOwner k (f k)) → P (changeSocket h f s).2
  slot : ∀ {s} h k, P s → SameSlot (sockAt s h) k → P (setSock h k s)

/-- A property that no block transfer breaks whose bytes it survives. -/
def TransferStable (P : State → Prop) : Prop :=
  ∀ body : State → Ret × State, (∀ s, P s → P (body s).2) →
    ∀ len auto atZero s, P s → P (blockTransfer len auto atZero body s).2

/-- Under a mastership that the engine has, a transfer only moves its bytes. -/
theorem transferStable_of_mastered {P : State → Prop} (h : ∀ s, P s → s.eng.mastered = true) :
    TransferStable P := by
  intro body hBody len auto atZero s hs
  unfold blockTransfer
  split
  · exact hs
  · split
    · exact hs
    · rw [if_pos (h s hs)]
      exact hBody s hs

/-- A transfer takes the bus, moves its bytes and gives the bus back. -/
theorem transferStable_of_mastership {P : State → Prop} (hTake : ∀ s, P s → P (requestAndTake s).2)
    (hRelease : ∀ s, P s → P (releaseMastership s)) : TransferStable P := by
  intro body hBody len auto atZero s hs
  have ht := hTake s hs
  unfold blockTransfer
  split
  · exact hs
  · split
    · exact hs
    · split
      · exact hBody s hs
      · split
        · split <;> (rename_i heq; rw [heq] at ht)
          · exact hRelease _ (hBody _ ht)
          · exact ht
        · exact hs

/-! ### Records and replies -/

/-- The snapshot after an injection leaves the tracker its handle (45_tracker.md R324). -/
theorem finishRegs_socket (t : Tracker) : (finishRegs t).socket = t.socket := by
  unfold finishRegs
  split
  · split <;> rfl
  · rfl

namespace CallbackStable

variable {P : State → Prop} {s : State}

/-- A write of the model's own records, such as the calls made and the count of draws (log entry 26). -/
theorem world (hP : CallbackStable P) (hs : P s) {w : World} (hc : w.clock = s.world.clock)
    (hp : w.present = s.world.present) : P (s.withWorld w) :=
  hP.move hs (withWorld_worldMove hc hp)

theorem logCall (hP : CallbackStable P) (hs : P s) (c : CallRecord) : P (logCall c s) :=
  hP.world hs rfl rfl

/-- A reply that is taken leaves a collaborator's slot a collaborator's. -/
theorem nextWaitReply (hP : CallbackStable P) (hs : P s) (h : Nat) : P (nextWaitReply h s).2 := by
  obtain ⟨r, rs, hk, hn⟩ | ⟨r, hn⟩ | ⟨-, hn⟩ := nextWaitReply_cases h s <;> rw [hn]
  · exact hP.slot h _ hs ⟨⟨rfl, by simp [hk], .rfl⟩, rfl, rfl, rfl, rfl⟩
  · exact hP.world hs rfl rfl
  · exact hs

theorem nextDoneReply (hP : CallbackStable P) (hs : P s) (h : Nat) : P (nextDoneReply h s).2 := by
  obtain ⟨r, rs, hk, hn⟩ | ⟨r, hn⟩ | ⟨-, hn⟩ := nextDoneReply_cases h s <;> rw [hn]
  · exact hP.slot h _ hs ⟨⟨rfl, .rfl, by simp [hk]⟩, rfl, rfl, rfl, rfl⟩
  · exact hP.world hs rfl rfl
  · exact hs

/-! ### Socket commands -/

theorem enableSocket (hP : CallbackStable P) (hs : P s) (h : Nat) (e : Bool) :
    P (enableSocket h e s).2 :=
  hP.flags h _ hs fun _ => ⟨rfl, .rfl, .rfl⟩

theorem setWaitOn (hP : CallbackStable P) (hs : P s) (h : Nat) (m i : Bool) :
    P (setWaitOn h m i s).2 :=
  hP.flags h _ hs fun _ => ⟨rfl, .rfl, .rfl⟩

theorem setHold (hP : CallbackStable P) (hs : P s) (h : Nat) (d : Bool) : P (setHold h d s).2 :=
  hP.flags h _ hs fun _ => ⟨rfl, .rfl, .rfl⟩

theorem requestAction (hP : CallbackStable P) (hs : P s) (h : Nat) (act : BitVec 2) (r : Byte) :
    P (requestAction h act r s).2 := by
  unfold Machine.requestAction
  split
  · split
    · exact hs
    · split
      · exact hs
      · exact hP.slot h _ hs ⟨⟨rfl, .rfl, .rfl⟩, rfl, rfl, rfl, rfl⟩
  · exact hs

theorem requestBus (hP : CallbackStable P) (hs : P s) (h : Nat) (r : Byte) :
    P (requestBus h r s).2 := by
  unfold Machine.requestBus
  split
  · split
    · exact hs
    · exact hP.slot h _ hs ⟨⟨rfl, .rfl, .rfl⟩, rfl, rfl, rfl, rfl⟩
  · exact hs

/-! ### Breakpoint and block commands -/

theorem bpWrite (hP : CallbackStable P) (hs : P s) (t : BpTable) (i : Nat) (e : Breakpoint) :
    P (bpWrite t i e s) := by
  cases t
  · exact hP.bp _ hs (by simp) rfl
  · exact hP.bp _ hs rfl (by simp)

theorem bpSet (hP : CallbackStable P) (hs : P s) (t : BpTable) (i : Nat) (pc : Addr) (msg : String) :
    P (bpSet t i pc msg s).2 := by
  unfold Machine.bpSet
  split
  · exact hP.bpWrite hs _ _ _
  · exact hs

theorem bpClear (hP : CallbackStable P) (hs : P s) (t : BpTable) (i : Nat) :
    P (bpClear t i s).2 := by
  unfold Machine.bpClear
  split
  · exact hP.bpWrite hs _ _ _
  · exact hs

theorem bpGlobalEnable (hP : CallbackStable P) (hs : P s) (e : Bool) : P (bpGlobalEnable e s).2 :=
  hP.bp { s.bp with globalEnable := e } hs rfl rfl

theorem blockRead (hP : CallbackStable P) (hT : TransferStable P) (hs : P s) (addr : Addr) (len : Nat)
    (io auto : Bool) : P (blockRead addr len io auto s).2 :=
  hT _ (fun u hu => hP.move hu (readBytes_worldMove io addr 0 len u)) len auto _ s hs

theorem blockWrite (hP : CallbackStable P) (hT : TransferStable P) (hs : P s) (addr : Addr)
    (buf : List Byte) (io auto : Bool) : P (blockWrite addr buf io auto s).2 :=
  hT _ (fun u hu => hP.move hu (writeBytes_worldMove io addr 0 buf u)) buf.length auto _ s hs

/-- The commands that one callback issues. -/
theorem runCallbackCommands (hP : CallbackStable P) {m : Bool} (hT : m = true → TransferStable P)
    (hs : P s) (h : Nat) (cs : List CbCommand) : P (runCallbackCommands h m cs s) := by
  refine runCallbackCommands_keeps (P := P) (fun c u hu => ?_) (fun w r u hu => hP.logCall hu _) cs hs
  exact callbackCommand_keeps hu (hP.enableSocket hu) (hP.setWaitOn hu) (hP.setHold hu)
    (hP.requestAction hu) (hP.requestBus hu) (fun b => hP.bp b hu)
    (fun hm => hP.blockRead (hT hm) hu) (fun hm => hP.blockWrite (hT hm) hu) c

/-! ### The tracker's callbacks (45_tracker.md R317 to R328) -/

theorem releaseHold (hP : CallbackStable P) (hs : P s) : P (releaseHold s) := by
  unfold Machine.releaseHold
  split
  · exact hP.trk _ (hP.setHold hs _ _) rfl
  · exact hs

theorem recordFetch (hP : CallbackStable P) (hs : P s) (rb : Byte) : P (recordFetch rb s) :=
  hP.trk _ hs rfl

theorem resetHistory (hP : CallbackStable P) (hs : P s) : P (resetHistory s) := hP.trk _ hs rfl

theorem doDisable (hP : CallbackStable P) (hs : P s) : P (doDisable s) := by
  unfold Machine.doDisable
  refine hP.setWaitOn (hP.enableSocket ?_ _ _) _ _ _
  exact hP.trk _ (hP.releaseHold hs) rfl

theorem finishInjection (hP : CallbackStable P) (hs : P s) : P (finishInjection s) := by
  have hend : P (s.withTrk { finishRegs { s.trk with state := .postInject, pageOut := false } with
      seqKind := .none, seq := [], cursor := 0 }) := hP.trk _ hs (finishRegs_socket _)
  unfold Machine.finishInjection
  simp only
  split
  · exact hP.doDisable hend
  · exact hP.trk _ hend rfl

theorem injectStep (hP : CallbackStable P) (hs : P s) (addr : Addr) (data : Byte) (f : CtrlFlags) :
    P (injectStep addr data f s).2 := by
  have hlast : ∀ u, P u →
      P (if u.trk.cursor = u.trk.seq.length then Machine.finishInjection u else u) := by
    intro u hu
    split
    · exact hP.finishInjection hu
    · exact hu
  unfold Machine.injectStep
  split
  · have hbyte : P (s.withTrk { s.trk with cursor := s.trk.cursor + 1 }) := hP.trk _ hs rfl
    refine hlast _ ?_
    split
    · exact hP.recordFetch hbyte _
    · exact hbyte
  · split
    · have hcap : P (s.withTrk (captureWrite addr data s.trk)) := hP.trk _ hs rfl
      simp only
      split
      · exact hP.requestBus hcap _ _
      · exact hcap
    · exact hs

theorem startInjection (hP : CallbackStable P) (hs : P s) (addr : Addr) (hit : Bool) :
    P (startInjection addr hit s) := by
  unfold Machine.startInjection
  refine hP.trk _ hs ?_
  simp only
  split <;> rfl

theorem takeHold (hP : CallbackStable P) (hs : P s) (data : Byte) : P (takeHold data s) := by
  have hdisarm : P (s.withTrk { s.trk with holdArmed := false }) := hP.trk _ hs rfl
  have hhold := hP.setHold hdisarm s.trk.socket true
  refine hP.trk _ (hP.recordFetch ?_ data) rfl
  exact hP.trk _ hhold rfl

theorem boundaryStep (hP : CallbackStable P) (hs : P s) (addr : Addr) (data : Byte) (f : CtrlFlags) :
    P (boundaryStep addr data f s).2 := by
  have hnote : P (noteBreak addr (checkForBreak addr f s) s) := by
    unfold noteBreak
    split
    · exact hP.trk _ hs rfl
    · exact hs
  unfold Machine.boundaryStep
  simp only
  split
  · exact hP.recordFetch hnote data
  · split
    · exact hP.takeHold hnote data
    · split
      · exact hP.injectStep (hP.startInjection hnote _ _) _ _ _
      · exact hP.trk _ (hP.recordFetch hnote data) rfl

theorem trackerOnWaitCycle (hP : CallbackStable P) (hs : P s) (addr : Addr) (data : Byte)
    (f : CtrlFlags) : P (trackerOnWaitCycle addr data f s).2 := by
  unfold Machine.trackerOnWaitCycle
  split
  · exact hs
  · split
    · exact hP.injectStep hs _ _ _
    · split
      · exact hs
      · exact hP.boundaryStep hs _ _ _

theorem abortInjection (hP : CallbackStable P) (hs : P s) : P (abortInjection s) := by
  unfold Machine.abortInjection
  split
  · have hend : P (s.withTrk { s.trk with pageOut := false, seqKind := .none, seq := [], cursor := 0 }) :=
      hP.trk _ hs rfl
    simp only
    split
    · exact hP.doDisable hend
    · exact hP.trk _ hend rfl
  · exact hs

theorem mirrorMemory (hP : CallbackStable P) (hs : P s) : P (mirrorMemory s) := by
  unfold Machine.mirrorMemory
  split <;> exact hP.trk _ hs rfl

theorem trackerOnComplete (hP : CallbackStable P) (hs : P s) (a : BusAction) (reason : Byte)
    (o : ActOutcome) : P (trackerOnComplete a reason o s) := by
  have hpulse : P (if s.trk.state = .injecting then s.withTrk { s.trk with disturbed := true } else s) := by
    split
    · exact hP.trk _ hs rfl
    · exact hs
  cases a with
  | none => exact hs
  | reset =>
    have hhist := hP.resetHistory (hP.abortInjection hs)
    exact hP.releaseHold (hP.trk _ hhist rfl)
  | nmi => exact hpulse
  | irq => exact hpulse
  | busRequest =>
    simp only [Machine.trackerOnComplete]
    split
    · split
      · exact hP.mirrorMemory hs
      · exact hP.trk _ hs rfl
    · exact hs

/-! ### All sockets -/

/-- A fan-out keeps what every callback keeps: no callback of a wait cycle may transfer. -/
theorem fanOut (hP : CallbackStable P) (hs : P s) (addr : Addr) (data : Byte) (f : CtrlFlags)
    (hands : List Nat) : P (fanOut addr data f hands s).2 :=
  fanOut_keeps (P := P) (fun h _ hu _ => callWait_keeps (P := P) (fun _ hv => hP.logCall hv _)
    (fun _ hv _ => hP.trackerOnWaitCycle hv _ _ _) (fun _ hv _ => hP.nextWaitReply hv h)
    (fun cs _ hv => hP.runCallbackCommands (fun hm => absurd hm Bool.false_ne_true) hv h cs) hu) hands hs

/-- A notification keeps what every callback keeps; the callbacks of a granted BusRequest may transfer. -/
theorem notifyAll (hP : CallbackStable P) (hs : P s) {a : BusAction} {o : ActOutcome}
    (hT : a = .busRequest → o = .ok → TransferStable P) (reason : Byte) :
    P (notifyAll a reason o s) :=
  completeAll_keeps (P := P) (fun h _ hu => callDone_keeps (P := P) (fun _ hv => hP.logCall hv _)
    (fun _ hv _ => hP.trackerOnComplete hv _ _ _) (fun _ hv _ => hP.nextDoneReply hv h)
    (fun cs _ hv => hP.runCallbackCommands
      (fun hm => hT (of_decide_eq_true hm).1 (of_decide_eq_true hm).2) hv h cs) hu) _ hs

/-! ### The tracker's commands (45_tracker.md R310 to R315) -/

theorem trkEnable (hP : CallbackStable P) (hs : P s) (e : Bool) : P (trkEnable e s).2 := by
  unfold Machine.trkEnable
  split
  · have hhist := hP.resetHistory hs
    simp only
    split
    · exact hP.trk _ hhist rfl
    · split
      · exact hhist
      · refine hP.enableSocket (hP.setWaitOn ?_ _ _ _) _ _
        exact hP.trk _ hhist rfl
  · split
    · exact hs
    · split
      · exact hP.trk _ hs rfl
      · exact hP.doDisable hs

theorem trkRequestGet (hP : CallbackStable P) (hs : P s) : P (trkRequestGet s).2 := by
  unfold Machine.trkRequestGet
  split
  · exact hP.trk _ hs rfl
  · exact hs

theorem trkStartSet (hP : CallbackStable P) (hs : P s) (r : Z80Registers) :
    P (trkStartSet r s).2 := by
  unfold Machine.trkStartSet
  split
  · exact hs
  · split
    · exact hP.trk _ hs rfl
    · exact hs

theorem trkStep (hP : CallbackStable P) (hs : P s) : P (trkStep s).2 := by
  unfold Machine.trkStep
  split
  · refine hP.releaseHold ?_
    exact hP.trk _ hs rfl
  · exact hs

theorem trkRun (hP : CallbackStable P) (hs : P s) : P (trkRun s).2 := by
  unfold Machine.trkRun
  split
  · refine hP.releaseHold ?_
    exact hP.trk _ hs rfl
  · exact hs

theorem trkHalt (hP : CallbackStable P) (hs : P s) : P (trkHalt s).2 := by
  unfold Machine.trkHalt
  split
  · exact hP.trk _ hs rfl
  · exact hs

end CallbackStable

end Sys2Proof.Machine
end

section
/-! SUPPORT. What a whole step keeps: a property that the callbacks keep, and each part of the engine that
is no callback, survives every step. -/

namespace Sys2Proof.Machine

/-- A property of states that every part of a step keeps: what a callback does, a write of the port,
ADD_SOCKET by a collaborator (log entry 34), the parts of a tick (41_wait_service.md R170), and the taking
and giving back of the bus. -/
structure StepStable (P : State → Prop) : Prop extends CallbackStable P where
  port : ∀ {s} p, P s → P (s.withPort p)
  add : ∀ {s} info w d, P s → P (addSocket info (.script w) (.script d) s).2
  diag : ∀ {s}, P s → P (diagEvents s)
  wait : ∀ {s}, P s → P (tickWait s)
  advance : ∀ {s}, P s → P (advancePending s)
  timeout : ∀ {s}, P s → P (actionTimeoutCheck s)
  check : ∀ {s}, P s → P (checkPending s)
  start : ∀ {s}, P s → P (startPending s).2
  take : ∀ {s}, P s → P (requestAndTake s).2
  release : ∀ {s}, P s → P (releaseMastership s)

namespace StepStable

variable {P : State → Prop} {s t : State}

/-- A command ends with its result at the port. -/
theorem answer (hP : StepStable P) (hs : P s) (r : Ret) : P (s.answer r) := hP.port _ hs

theorem transfer (hP : StepStable P) : TransferStable P :=
  transferStable_of_mastership (P := P) (fun _ => hP.take) (fun _ => hP.release)

theorem releaseBus (hP : StepStable P) (hs : P s) : P (releaseBus s).2 := by
  unfold Machine.releaseBus
  split
  · exact hP.release hs
  · exact hs

theorem tickActions (hP : StepStable P) (hs : P s) : P (tickActions s) := by
  have h := hP.timeout (hP.advance hs)
  unfold Machine.tickActions
  simp only
  split
  · exact hP.start (hP.check h)
  · exact h

theorem serviceTick (hP : StepStable P) (hs : P s) : P (serviceTick s) :=
  hP.tickActions (hP.wait (hP.diag hs))

theorem execOnWaitCycle (hP : StepStable P) (hs : P s) (h : execOnWaitCycle s = .next t) : P t := by
  unfold Machine.execOnWaitCycle at h
  split at h <;> cases h
  · exact hP.answer hs _
  · exact hP.answer (hP.trackerOnWaitCycle hs _ _ _) _

theorem execOnBusActionComplete (hP : StepStable P) (hs : P s)
    (h : execOnBusActionComplete s = .next t) : P t := by
  unfold Machine.execOnBusActionComplete at h
  split at h <;> cases h
  · exact hP.answer hs _
  · exact hP.answer (hP.trackerOnComplete hs _ _ _) _

/-- Every instruction keeps it: a command word by its own part, a Z80 instruction as a move of the world. -/
theorem exec (hP : StepStable P) (i : Instr) (hs : P s) (h : exec i s = .next t) : P t := by
  by_cases hz : i.isZ80 = true
  · exact hP.move hs (exec_z80_worldMove hz h)
  cases i with
  | addSocket => cases h; exact hP.answer (hP.add _ _ _ hs) _
  | enableSocket h' e => cases h; exact hP.answer (hP.enableSocket hs _ _) _
  | setWaitOn h' m io => cases h; exact hP.answer (hP.setWaitOn hs _ _ _) _
  | setHold h' d => cases h; exact hP.answer (hP.setHold hs _ _) _
  | requestAction h' r a => cases h; exact hP.answer (hP.requestAction hs _ _ _) _
  | requestBus h' r => cases h; exact hP.answer (hP.requestBus hs _ _) _
  | serviceTick => cases h; exact hP.answer (hP.serviceTick hs) _
  | checkPending => cases h; exact hP.answer (hP.check hs) _
  | startPending => cases h; exact hP.answer (hP.start hs) _
  | advancePending => cases h; exact hP.answer (hP.advance hs) _
  | requestAndTake => cases h; exact hP.answer (hP.take hs) _
  | release => cases h; exact hP.answer (hP.releaseBus hs) _
  | blockRead auto io a => cases h; exact hP.answer (hP.blockRead hP.transfer hs _ _ _ _) _
  | blockWrite auto io a => cases h; exact hP.answer (hP.blockWrite hP.transfer hs _ _ _ _) _
  | trkEnable e => cases h; exact hP.answer (hP.trkEnable hs _) _
  | trkRequestGet => cases h; exact hP.answer (hP.trkRequestGet hs) _
  | trkStartSet => cases h; exact hP.answer (hP.trkStartSet hs _) _
  | trkStep => cases h; exact hP.answer (hP.trkStep hs) _
  | trkRun => cases h; exact hP.answer (hP.trkRun hs) _
  | trkHalt => cases h; exact hP.answer (hP.trkHalt hs) _
  | bpSet t' i pc => cases h; exact hP.answer (hP.bpSet hs _ _ _ _) _
  | bpClear t' i => cases h; exact hP.answer (hP.bpClear hs _ _) _
  | bpGlobalEnable e => cases h; exact hP.answer (hP.bpGlobalEnable hs _) _
  | checkForBreak f a => cases h; exact hP.answer hs _
  | isPrefix b => cases h; exact hP.answer hs _
  | onWaitCycle => exact hP.execOnWaitCycle hs h
  | onBusActionComplete => exact hP.execOnBusActionComplete hs h
  | _ => exact absurd rfl hz

theorem step (hP : StepStable P) (hs : P s) (h : step s = .next t) : P t :=
  step_keeps (fun u hu => hP.move hu (nextTurn_worldMove u)) (fun _ p => hP.port p)
    (fun i _ _ hu => hP.exec i hu) (fun u hu => hP.move hu (z80Cycle_worldMove u))
    (fun m u hu => hP.move hu (outsideMove_worldMove m u)) hs h

end StepStable

end Sys2Proof.Machine
end

section
/-! SUPPORT. All that each part of the arbiter and of mastership can do (42_bus_actions.md R212 to R217,
43_mastership_block_io.md R250), and what the wait half of a tick keeps of a property that is not about
waits (41_wait_service.md R170 to R186). -/

namespace Sys2Proof.Machine

/-! ### The arbiter -/

/-- CHECK_PENDING does nothing, or takes a request of a registered socket at the time now. -/
theorem checkPending_cases (s : State) :
    checkPending s = s ∨
    s.eng.act.status = .none ∧ s.eng.mastered = false ∧ ∃ h a r k, a ≠ .none ∧
      SameSlot (sockAt s h) k ∧
      checkPending s = setAct
        { status := .pending, action := a, socket := h, reason := r,
          startTime := (now (setSock h k s)).1, assertedAt := 0, durationUs := 0 }
        (now (setSock h k s)).2 := by
  unfold checkPending
  split
  · exact .inl rfl
  · split
    · exact .inl rfl
    · split
      · exact .inl rfl
      · rename_i hst hm _ h a r k hf
        refine .inr ⟨not_not.mp hst, by simpa using hm, h, a, r, k, ?_, ?_, rfl⟩
        · obtain ⟨-, ⟨p, -, rfl, -⟩ | ⟨-, -, rfl, -⟩⟩ := findRequest_some hf
          · cases p <;> nofun
          · nofun
        · obtain ⟨-, ⟨p, -, -, rfl⟩ | ⟨-, -, -, rfl⟩⟩ := findRequest_some hf <;>
            exact ⟨⟨rfl, .rfl, .rfl⟩, rfl, rfl, rfl, rfl⟩

/-- START_PENDING does nothing, asserts the pending Reset, NMI or IRQ, or asks for the bus. -/
theorem startPending_cases (s : State) :
    (startPending s).2 = s ∨
    s.eng.act.status = .pending ∧ isPulse s.eng.act.action = true ∧
      (∃ d, (startPending s).2 = (assertPulse s.eng.act.action d s).2) ∨
    s.eng.act.status = .pending ∧ s.eng.act.action = .busRequest ∧
      (startPending s).2 = (busRequestHandshake s).2 := by
  unfold startPending
  split
  · exact .inl rfl
  · rename_i hst
    have hst' := not_not.mp hst
    split <;> (rename_i ha; rw [ha])
    · exact .inr (.inl ⟨hst', rfl, _, rfl⟩)
    · exact .inr (.inl ⟨hst', rfl, _, rfl⟩)
    · exact .inr (.inl ⟨hst', rfl, _, rfl⟩)
    · exact .inr (.inr ⟨hst', rfl, rfl⟩)
    · exact .inl rfl

/-- The handshake lends the bus while it notifies all, or fails and notifies all. -/
theorem busRequestHandshake_cases (s : State) :
    (busRequestHandshake s).2 = releaseMastership (notifyAll .busRequest s.eng.act.reason .ok
      (clearAction (takeMastership (awaitBusack s).2))) ∨
    (busRequestHandshake s).2 = notifyAll .busRequest s.eng.act.reason .busRequestFailed
      (clearAction (deassertLine .busRequest (awaitBusack s).2)) := by
  unfold busRequestHandshake
  simp only
  split <;> (rename_i heq; rw [heq])
  · exact .inl rfl
  · exact .inr rfl

/-- ADVANCE_PENDING does nothing, reads the time, or ends the asserted Reset, NMI or IRQ and notifies all
before it clears the action. -/
theorem advancePending_cases (s : State) :
    advancePending s = s ∨ advancePending s = (now s).2 ∨
    s.eng.act.status = .asserted ∧ isPulse s.eng.act.action = true ∧
      advancePending s = clearAction (notifyAll s.eng.act.action s.eng.act.reason .ok
        (deassertLine s.eng.act.action (now s).2)) := by
  unfold advancePending
  split
  · exact .inl rfl
  · rename_i h
    push Not at h
    simp only [now_eng]
    split
    · exact .inr (.inl rfl)
    · exact .inr (.inr ⟨h.1, by simpa using h.2, rfl⟩)

/-- The timeout check does nothing, reads the time, or ends the action in progress, and then its line where
it is asserted, before it notifies all. -/
theorem actionTimeoutCheck_cases (s : State) :
    actionTimeoutCheck s = s ∨ actionTimeoutCheck s = (now s).2 ∨
    s.eng.act.status = .asserted ∧
      actionTimeoutCheck s = notifyAll s.eng.act.action s.eng.act.reason .actionTimedOut
        (clearAction (deassertLine s.eng.act.action (now s).2)) ∨
    s.eng.act.status = .pending ∧
      actionTimeoutCheck s = notifyAll s.eng.act.action s.eng.act.reason .actionTimedOut
        (clearAction (now s).2) := by
  unfold actionTimeoutCheck
  cases hst : s.eng.act.status with
  | none => exact .inl rfl
  | pending =>
    simp only [now_eng, hst, reduceCtorEq, if_false]
    split
    · exact .inr (.inl rfl)
    · exact .inr (.inr (.inr ⟨trivial, rfl⟩))
  | asserted =>
    simp only [now_eng, hst, reduceCtorEq, if_false, if_true]
    split
    · exact .inr (.inl rfl)
    · exact .inr (.inr (.inl ⟨trivial, rfl⟩))

/-- REQUEST_AND_TAKE does nothing, takes the bus, or deasserts BUSRQ again. -/
theorem requestAndTake_cases (s : State) :
    (requestAndTake s).2 = s ∨
    s.eng.mastered = false ∧ s.eng.act.status = .none ∧
      ((requestAndTake s).2 = takeMastership (awaitBusack s).2 ∨
        (requestAndTake s).2 = deassertLine .busRequest (awaitBusack s).2) := by
  unfold requestAndTake
  split
  · exact .inl rfl
  · rename_i h
    refine .inr ⟨by simp_all, by simp_all, ?_⟩
    split <;> (rename_i heq; rw [heq])
    · exact .inl rfl
    · exact .inr rfl

/-- RESET restarts the Z80: a cycle in a wait stays in it (70_reset_and_hazards.md R454). -/
theorem z80Reset_worldMove (s : State) : WorldMove s (z80Reset s) :=
  ⟨withWorld_sameBlock _ _, le_refl _, fun h => by simpa [z80Reset] using h⟩

/-- The assert of a line sets the line, and for RESET the Z80 restarts. -/
theorem assertLine_worldMove (a : BusAction) (s : State) :
    WorldMove (setLine a true s) (assertLine a s) := by
  cases a with
  | reset => exact z80Reset_worldMove _
  | none => exact WorldMove.refl _
  | nmi => exact WorldMove.refl _
  | irq => exact WorldMove.refl _
  | busRequest => exact WorldMove.refl _

theorem awaitBusack_worldMove (s : State) :
    WorldMove (setLine .busRequest true s) (awaitBusack s).2 := (awaitBusack_onlyTime s).worldMove

/-! ### The wait half of a tick -/

/-- A property of states that the callbacks keep, and that is about neither the world nor the wait in
progress. -/
structure WaitBlind (P : State → Prop) : Prop extends CallbackStable P where
  anyWorld : ∀ {s} w, P s → P (s.withWorld w)
  wait : ∀ {s} w c, P s → w.hold = s.eng.wait.hold →
    P (s.withEng { s.eng with wait := w, counters := c })

namespace WaitBlind

variable {P : State → Prop} {s : State}

theorem sameBlock (hP : WaitBlind P) {t : State} (hs : P s) (h : SameBlock s t) : P t :=
  h.eq_withWorld ▸ hP.anyWorld t.world hs

theorem diagEvents (hP : WaitBlind P) (hs : P s) : P (diagEvents s) := by
  obtain ⟨d, w, h, -⟩ := diagEvents_cases s
  rw [h]
  exact hP.wait _ _ (hP.anyWorld w hs) rfl

theorem completeServiced (hP : WaitBlind P) (hs : P s) : P (completeServiced s) := by
  have hrel := hP.sameBlock hs (releaseWait_sameBlock (drivenByte s.eng.wait.cur) s)
  refine hP.wait _ _ (hP.sameBlock ?_ (now_worldMove _).block) rfl
  exact hP.wait _ _ hrel rfl

theorem decodeTimeout (hP : WaitBlind P) (hs : P s) : P (decodeTimeout s) := by
  refine hP.wait _ _ (hP.sameBlock ?_ (releaseWait_sameBlock none _)) rfl
  exact hP.wait _ _ hs rfl

theorem dispatchCycle (hP : WaitBlind P) (hs : P s) (f : CtrlFlags) : P (dispatchCycle f s) := by
  have hdata := hP.move (hP.move hs (sampleCtrl_worldMove s)) (sampleData_worldMove _)
  have hfan := hP.fanOut hdata
  unfold Machine.dispatchCycle
  simp only
  split
  · refine hP.wait _ _ ?_ rfl
    exact hP.wait _ _ (hfan _ _ _ _) rfl
  · refine hP.completeServiced ?_
    exact hP.wait _ _ (hfan _ _ _ _) rfl

theorem decodeAndDispatch (hP : WaitBlind P) (hs : P s) : P (decodeAndDispatch s) := by
  have hloop := hP.move hs (settleLoop_worldMove s.cfg.settleRetries s)
  unfold Machine.decodeAndDispatch
  split <;> (rename_i heq; rw [heq] at hloop)
  · exact hP.decodeTimeout hloop
  · exact hP.dispatchCycle hloop _

theorem tickWait (hP : WaitBlind P) (hs : P s) : P (tickWait s) := by
  unfold Machine.tickWait
  split
  · have hack := hP.move hs (sampleBusack_worldMove s)
    unfold waitDetect
    simp only
    split
    · refine hP.decodeAndDispatch (hP.wait _ _ (hP.move ?_ (now_worldMove _)) rfl)
      exact hP.wait _ _ hack rfl
    · exact hack
  · split
    · exact hP.completeServiced hs
    · exact hs

end WaitBlind

end Sys2Proof.Machine
end

section
/-! SUPPORT. The socket table and its aggregates along a step (10_state.md R20, R23, R25, 40_socket_table.md
R146). -/

namespace Sys2Proof.Machine

/-- Two states with the same parameters and the same shape of tables: their sizes, and who owns each
slot. -/
structure SameTable (s t : State) : Prop where
  cfg : t.cfg = s.cfg
  length : t.eng.sock.length = s.eng.sock.length
  numSockets : t.eng.numSockets = s.eng.numSockets
  owner : ∀ h, SameOwner (sockAt s h) (sockAt t h)
  handle : t.trk.socket = s.trk.socket
  fast : t.bp.fast.length = s.bp.fast.length
  slow : t.bp.slow.length = s.bp.slow.length

theorem SameTable.tableOk {s t : State} (h : SameTable s t) (hs : TableOk s) : TableOk t := by
  obtain ⟨hlen, hone, hmax, hreg, hcoll, htrk, hwait, hdone, hfast, hslow⟩ := hs
  refine ⟨by rw [h.length, h.cfg, hlen], by rwa [h.numSockets], by rwa [h.numSockets, h.cfg],
    fun j hj => ?_, fun j hj hpos => ?_, h.handle.trans htrk, (h.owner 0).onWait.mpr hwait,
    (h.owner 0).onDone.mpr hdone, by rw [h.fast, h.cfg, hfast], by rw [h.slow, h.cfg, hslow]⟩
  · rw [(h.owner j).registered, h.numSockets]
    exact hreg j (h.cfg ▸ hj)
  · obtain ⟨hw, hd⟩ := hcoll j (h.cfg ▸ hj) hpos
    exact ⟨mt (h.owner j).onWait.mp hw, mt (h.owner j).onDone.mp hd⟩

/-- Writing a slot with a related one leaves every slot related to itself before; beyond the table nothing
is written (log entry 32). -/
theorem sockAt_setSock_related {R : Socket → Socket → Prop} (hR : ∀ k, R k k) {s : State} {h : Nat}
    {k : Socket} (hk : R (sockAt s h) k) (j : Nat) : R (sockAt s j) (sockAt (setSock h k s) j) := by
  by_cases hj : j = h
  · subst hj
    by_cases hl : j < s.eng.sock.length
    · rwa [sockAt_setSock_self hl]
    · rw [sockAt_outside (by omega), sockAt_outside (by rw [setSock_length]; omega)]
      exact hR _
  · rw [sockAt_setSock_other hj]
    exact hR _

theorem setSock_sameTable {s : State} {h : Nat} {k : Socket} (hk : SameOwner (sockAt s h) k) :
    SameTable s (setSock h k s) :=
  ⟨rfl, setSock_length s h k, rfl, sockAt_setSock_related SameOwner.refl hk, rfl, rfl, rfl⟩

/-- The slots with one more registered, a collaborator's, in the first free slot. -/
theorem TableOk.register {s : State} {k : Socket} (hs : TableOk s)
    (hfull : ¬ s.eng.numSockets = s.cfg.maxSockets) (hreg : k.registered = true)
    (hwait : k.onWaitCycle ≠ .tracker) (hdone : k.onDone ≠ .tracker) :
    TableOk ((setSock s.eng.numSockets k s).withEng
      { (setSock s.eng.numSockets k s).eng with numSockets := s.eng.numSockets + 1 }) := by
  obtain ⟨hlen, hone, hmax, hregs, hcoll, htrk, hwait0, hdone0, hfast, hslow⟩ := hs
  have hself : sockAt (setSock s.eng.numSockets k s) s.eng.numSockets = k :=
    sockAt_setSock_self (by omega) k
  have hother : ∀ j, j ≠ s.eng.numSockets → sockAt (setSock s.eng.numSockets k s) j = sockAt s j :=
    fun j hj => sockAt_setSock_other hj k
  have h0 := hother 0 (by omega)
  refine ⟨(setSock_length s _ k).trans hlen, Nat.le_add_left 1 _, ?_, fun j hj => ?_,
    fun j hj hpos => ?_, htrk, h0 ▸ hwait0, h0 ▸ hdone0, hfast, hslow⟩
  · change s.eng.numSockets + 1 ≤ s.cfg.maxSockets
    omega
  · change (sockAt (setSock s.eng.numSockets k s) j).registered = true ↔ j < s.eng.numSockets + 1
    by_cases hjn : j = s.eng.numSockets
    · simp [hjn, hself, hreg]
    · rw [hother j hjn, hregs j hj]
      omega
  · change (sockAt (setSock s.eng.numSockets k s) j).onWaitCycle ≠ .tracker ∧
      (sockAt (setSock s.eng.numSockets k s) j).onDone ≠ .tracker
    by_cases hjn : j = s.eng.numSockets
    · rw [hjn, hself]
      exact ⟨hwait, hdone⟩
    · rw [hother j hjn]
      exact hcoll j hj hpos

/-- The socket table and its aggregates are as they should be, in a machine with parameters `c` that has
had at least `n` sockets. -/
def TableKept (c : Params) (n : Nat) (s : State) : Prop :=
  SocketsOk s ∧ s.cfg = c ∧ n ≤ s.eng.numSockets

namespace TableKept

variable {c : Params} {n : Nat} {s t : State}

theorem of_sameTable (hs : TableKept c n s) (h : SameTable s t) (ha : AggregatesOk t) :
    TableKept c n t := by
  obtain ⟨⟨htable, -⟩, hcfg, hn⟩ := hs
  exact ⟨⟨h.tableOk htable, ha⟩, h.cfg.trans hcfg, by rwa [h.numSockets]⟩

theorem aggregatesOk (hs : TableKept c n s) : AggregatesOk s := hs.1.2

/-- The engine's part is read from the engine, and of the tracker and the breakpoint tables the handle and
the sizes. -/
theorem of_eng_eq (hs : TableKept c n s) (hcfg : t.cfg = s.cfg) (heng : t.eng = s.eng)
    (htrk : t.trk.socket = s.trk.socket) (hfast : t.bp.fast.length = s.bp.fast.length)
    (hslow : t.bp.slow.length = s.bp.slow.length) : TableKept c n t := by
  have hsock : t.eng.sock = s.eng.sock := by rw [heng]
  refine hs.of_sameTable ⟨hcfg, by rw [heng], by rw [heng], fun h => ?_, htrk, hfast, hslow⟩
    (aggregatesOk_congr heng hs.aggregatesOk)
  rw [sockAt_congr hsock]
  exact SameOwner.refl _

/-- An engine with the same sockets, mastership and aggregates. -/
theorem withEng (hs : TableKept c n s) {e : Engine} (hsock : e.sock = s.eng.sock)
    (hnum : e.numSockets = s.eng.numSockets) (hm : e.mastered = s.eng.mastered)
    (hhold : e.wait.hold = s.eng.wait.hold) (hmem : e.waitGenMem = s.eng.waitGenMem)
    (hio : e.waitGenIo = s.eng.waitGenIo) : TableKept c n (s.withEng e) := by
  have hat : ∀ h, sockAt (s.withEng e) h = sockAt s h := sockAt_congr hsock
  refine hs.of_sameTable ⟨rfl, congrArg List.length hsock, hnum, fun h => ?_, rfl, rfl, rfl⟩ ?_
  · rw [hat]
    exact SameOwner.refl _
  · exact aggregatesOk_of_flags hnum (fun h => by rw [hat]; exact ⟨rfl, rfl, rfl, rfl⟩) hm hhold hmem hio
      hs.aggregatesOk

theorem move (hs : TableKept c n s) (h : WorldMove s t) : TableKept c n t := by
  obtain ⟨hcfg, heng, htrk, hbp, -⟩ := h.block
  exact hs.of_eng_eq hcfg heng (by rw [htrk]) (by rw [hbp]) (by rw [hbp])

/-- A write of flags keeps the slots' owners and recomputes the aggregates. -/
theorem flags (hs : TableKept c n s) (h : Nat) {f : Socket → Socket} (hf : ∀ k, SameOwner k (f k)) :
    TableKept c n (changeSocket h f s).2 := by
  by_cases hh : h < s.eng.numSockets
  · rw [changeSocket_ok hh]
    have ht := setSock_sameTable (hf (sockAt s h))
    exact hs.of_sameTable ⟨ht.cfg, ht.length, ht.numSockets, ht.owner, ht.handle, ht.fast, ht.slow⟩
      (recompute_aggregatesOk _)
  · rwa [changeSocket_bad hh]

theorem slot (hs : TableKept c n s) {h : Nat} {k : Socket} (hk : SameSlot (sockAt s h) k) :
    TableKept c n (setSock h k s) := by
  refine hs.of_sameTable (setSock_sameTable hk.toSameOwner) ?_
  have hslot := sockAt_setSock_related SameSlot.refl hk
  exact aggregatesOk_of_flags (s := s) rfl
    (fun j => ⟨(hslot j).enabled, (hslot j).hold, (hslot j).waitOnMemory, (hslot j).waitOnIo⟩)
    rfl rfl rfl rfl hs.aggregatesOk

theorem setAct (hs : TableKept c n s) (a : BusActionState) : TableKept c n (setAct a s) :=
  hs.withEng rfl rfl rfl rfl rfl rfl

theorem clearAction (hs : TableKept c n s) : TableKept c n (clearAction s) := hs.setAct _

theorem setLine (hs : TableKept c n s) (a : BusAction) (v : Bool) : TableKept c n (setLine a v s) := by
  cases a with
  | none => exact hs
  | reset => exact hs.withEng rfl rfl rfl rfl rfl rfl
  | nmi => exact hs.withEng rfl rfl rfl rfl rfl rfl
  | irq => exact hs.withEng rfl rfl rfl rfl rfl rfl
  | busRequest => exact hs.withEng rfl rfl rfl rfl rfl rfl

theorem deassertLine (hs : TableKept c n s) (a : BusAction) : TableKept c n (deassertLine a s) :=
  hs.setLine a false

theorem assertLine (hs : TableKept c n s) (a : BusAction) : TableKept c n (assertLine a s) :=
  (hs.setLine a true).move (assertLine_worldMove a s)

theorem awaitBusack (hs : TableKept c n s) : TableKept c n (awaitBusack s).2 :=
  (hs.setLine .busRequest true).move (awaitBusack_worldMove s)

/-- Mastership changes the wait enables, which are recomputed with it (10_state.md R25). -/
theorem takeMastership (hs : TableKept c n s) : TableKept c n (takeMastership s) :=
  hs.of_sameTable ⟨rfl, rfl, rfl, fun _ => SameOwner.refl _, rfl, rfl, rfl⟩
    (recompute_aggregatesOk (s.withEng { s.eng with mastered := true }))

theorem releaseMastership (hs : TableKept c n s) : TableKept c n (releaseMastership s) :=
  hs.of_sameTable
    (by rw [releaseMastership_frame]; exact ⟨rfl, rfl, rfl, fun _ => SameOwner.refl _, rfl, rfl, rfl⟩)
    (releaseMastership_aggregatesOk s)

theorem requestAndTake (hs : TableKept c n s) : TableKept c n (requestAndTake s).2 := by
  obtain h | ⟨-, -, h | h⟩ := requestAndTake_cases s <;> rw [h]
  · exact hs
  · exact hs.awaitBusack.takeMastership
  · exact hs.awaitBusack.deassertLine _

/-- A new socket takes the first free slot, for a collaborator (40_socket_table.md R140). -/
theorem addSocket (hs : TableKept c n s) (info : SocketInfo) (w : List WaitReply)
    (d : List (List CbCommand)) : TableKept c n (addSocket info (.script w) (.script d) s).2 := by
  obtain ⟨⟨htable, hagg⟩, hcfg, hn⟩ := hs
  unfold Machine.addSocket
  simp only
  split
  · exact ⟨⟨htable, hagg⟩, hcfg, hn⟩
  · rename_i hfull
    exact ⟨⟨htable.register hfull rfl nofun nofun, recompute_aggregatesOk _⟩, hcfg, by
      simp only [recompute_eng_numSockets, State.withEng_eng]; omega⟩

end TableKept

theorem TableKept.callbackStable (c : Params) (n : Nat) : CallbackStable (TableKept c n) where
  move := TableKept.move
  trk _ hs hk := hs.of_eng_eq rfl rfl hk rfl rfl
  bp _ hs hfast hslow := hs.of_eng_eq rfl rfl rfl hfast hslow
  flags h _ hs hf := hs.flags h hf
  slot _ _ hs hk := hs.slot hk

theorem TableKept.waitBlind (c : Params) (n : Nat) : WaitBlind (TableKept c n) where
  toCallbackStable := TableKept.callbackStable c n
  anyWorld _ hs := hs.of_eng_eq rfl rfl rfl rfl rfl
  wait _ _ hs hw := hs.withEng rfl rfl rfl hw rfl rfl

namespace TableKept

variable {c : Params} {n : Nat} {s : State}

theorem notifyAll (hs : TableKept c n s) (a : BusAction) (reason : Byte) (o : ActOutcome) :
    TableKept c n (notifyAll a reason o s) :=
  (callbackStable c n).notifyAll hs
    (fun _ _ => transferStable_of_mastership (P := TableKept c n) (fun _ => requestAndTake)
      (fun _ => releaseMastership)) reason

theorem now (hs : TableKept c n s) : TableKept c n (now s).2 := hs.move (now_worldMove s)

theorem advancePending (hs : TableKept c n s) : TableKept c n (advancePending s) := by
  obtain h | h | ⟨-, -, h⟩ := advancePending_cases s <;> rw [h]
  · exact hs
  · exact hs.now
  · exact ((hs.now.deassertLine _).notifyAll _ _ _).clearAction

theorem actionTimeoutCheck (hs : TableKept c n s) : TableKept c n (actionTimeoutCheck s) := by
  obtain h | h | ⟨-, h⟩ | ⟨-, h⟩ := actionTimeoutCheck_cases s <;> rw [h]
  · exact hs
  · exact hs.now
  · exact (hs.now.deassertLine _).clearAction.notifyAll _ _ _
  · exact hs.now.clearAction.notifyAll _ _ _

theorem checkPending (hs : TableKept c n s) : TableKept c n (checkPending s) := by
  obtain h | ⟨-, -, _, _, _, _, -, hk, h⟩ := checkPending_cases s <;> rw [h]
  · exact hs
  · exact (hs.slot hk).now.setAct _

theorem startPending (hs : TableKept c n s) : TableKept c n (startPending s).2 := by
  obtain h | ⟨-, -, _, h⟩ | ⟨-, -, h⟩ := startPending_cases s <;> rw [h]
  · exact hs
  · exact ((hs.assertLine _).setAct _).now.setAct _
  · obtain h | h := busRequestHandshake_cases s <;> rw [h]
    · exact (hs.awaitBusack.takeMastership.clearAction.notifyAll _ _ _).releaseMastership
    · exact (hs.awaitBusack.deassertLine _).clearAction.notifyAll _ _ _

end TableKept

theorem TableKept.stepStable (c : Params) (n : Nat) : StepStable (TableKept c n) where
  toCallbackStable := TableKept.callbackStable c n
  port _ hs := hs.of_eng_eq rfl rfl rfl rfl rfl
  add info w d hs := hs.addSocket info w d
  diag := (TableKept.waitBlind c n).diagEvents
  wait := (TableKept.waitBlind c n).tickWait
  advance := TableKept.advancePending
  timeout := TableKept.actionTimeoutCheck
  check := TableKept.checkPending
  start := TableKept.startPending
  take := TableKept.requestAndTake
  release := TableKept.releaseMastership

/-- Settles O54: every part of a step keeps the table, the parameters and the number of sockets so far. -/
theorem stepKeepsSocketsAndAggregates : Obligations.StepKeepsSocketsAndAggregates := fun s _ hs h =>
  (TableKept.stepStable s.cfg s.eng.numSockets).step ⟨hs, rfl, le_refl _⟩ h

end Sys2Proof.Machine
end

section
/-! SUPPORT. The bus has one owner along a step (10_state.md R22, R24, R27, 42_bus_actions.md R210, R218):
what no callback touches, and the owner through each part of the arbiter. -/

namespace Sys2Proof.Machine

/-! ### What no callback touches -/

/-- The engine without the slots and what 40_socket_table.md R146 computes from them. -/
def Engine.sansSlots (e : Engine) : Engine :=
  { e with sock := [], wait := { e.wait with hold := false }, waitGenMem := false, waitGenIo := false }

/-- All that the callbacks of a fan-out or a notification leave: the engine but for its slots and aggregates,
the time, and the presented cycle (40_socket_table.md R147). -/
structure CallbackFrame (s t : State) : Prop where
  engine : t.eng.sansSlots = s.eng.sansSlots
  clock : s.world.clock ≤ t.world.clock
  present : s.world.present.isSome = true → t.world.present.isSome = true

namespace CallbackFrame

variable {s t u : State}

theorem refl (s : State) : CallbackFrame s s := ⟨rfl, le_refl _, id⟩

theorem trans (h : CallbackFrame s t) (g : CallbackFrame t u) : CallbackFrame s u :=
  ⟨g.engine.trans h.engine, h.clock.trans g.clock, fun hp => g.present (h.present hp)⟩

theorem act (h : CallbackFrame s t) : t.eng.act = s.eng.act :=
  (congrArg Engine.act h.engine :)

theorem mastered (h : CallbackFrame s t) : t.eng.mastered = s.eng.mastered :=
  (congrArg Engine.mastered h.engine :)

theorem asserted (h : CallbackFrame s t) : t.eng.wait.asserted = s.eng.wait.asserted :=
  (congrArg (fun e : Engine => e.wait.asserted) h.engine :)

theorem held (h : CallbackFrame s t) : t.eng.wait.held = s.eng.wait.held :=
  (congrArg (fun e : Engine => e.wait.held) h.engine :)

theorem assertedAt (h : CallbackFrame s t) : t.eng.wait.assertedAt = s.eng.wait.assertedAt :=
  (congrArg (fun e : Engine => e.wait.assertedAt) h.engine :)

end CallbackFrame

theorem CallbackFrame.clearAction {s t : State} (h : CallbackFrame s t) :
    CallbackFrame (clearAction s) (clearAction t) :=
  ⟨congrArg (fun e : Engine => { e with act := BusActionState.cleared }) h.engine, h.clock, h.present⟩

theorem WorldMove.callbackFrame {s t : State} (h : WorldMove s t) : CallbackFrame s t :=
  ⟨by rw [h.eng], h.clock, h.present⟩

theorem changeSocket_callbackFrame (h : Nat) (f : Socket → Socket) (s : State) :
    CallbackFrame s (changeSocket h f s).2 := by
  by_cases hh : h < s.eng.numSockets
  · rw [changeSocket_ok hh]
    exact ⟨rfl, le_refl _, id⟩
  · rw [changeSocket_bad hh]
    exact CallbackFrame.refl s

/-- Every elementary change of a callback is within the frame. -/
theorem CallbackStable.of_frame {P : State → Prop} (hP : ∀ {s t}, P s → CallbackFrame s t → P t) :
    CallbackStable P where
  move hs h := hP hs h.callbackFrame
  trk _ hs _ := hP hs ⟨rfl, le_refl _, id⟩
  bp _ hs _ _ := hP hs ⟨rfl, le_refl _, id⟩
  flags h f hs _ := hP hs (changeSocket_callbackFrame h f _)
  slot _ _ hs _ := hP hs ⟨rfl, le_refl _, id⟩

theorem fanOut_callbackFrame (addr : Addr) (data : Byte) (f : CtrlFlags) (hands : List Nat) (s : State) :
    CallbackFrame s (fanOut addr data f hands s).2 :=
  (CallbackStable.of_frame (P := CallbackFrame s) CallbackFrame.trans).fanOut (CallbackFrame.refl s)
    addr data f hands

/-- A notification stays within the frame, where callbacks that may transfer do so under the engine's
mastership. -/
theorem notifyAll_callbackFrame {a : BusAction} {o : ActOutcome} {s : State} (reason : Byte)
    (hm : a = .busRequest → o = .ok → s.eng.mastered = true) :
    CallbackFrame s (notifyAll a reason o s) :=
  (CallbackStable.of_frame (P := CallbackFrame s) CallbackFrame.trans).notifyAll (CallbackFrame.refl s)
    (fun ha ho => transferStable_of_mastered (P := CallbackFrame s)
      fun _ h => h.mastered.trans (hm ha ho)) reason

/-- A notification of a Reset, NMI or IRQ, or of a failure, allows no transfer. -/
theorem notifyAll_callbackFrame_of_ne {a : BusAction} {o : ActOutcome} (reason : Byte)
    (h : a ≠ .busRequest ∨ o ≠ .ok) (s : State) : CallbackFrame s (notifyAll a reason o s) :=
  notifyAll_callbackFrame reason fun ha ho => h.elim (absurd ha) (absurd ho)

theorem isPulse_iff {a : BusAction} : isPulse a = true ↔ a = .reset ∨ a = .nmi ∨ a = .irq := by
  cases a <;> decide

theorem isPulse_ne_busRequest {a : BusAction} (h : isPulse a = true) : a ≠ .busRequest := by
  rintro rfl
  cases h

/-- Waiting for BUSACK asserts BUSRQ and changes nothing else of the engine. -/
theorem awaitBusack_eng (s : State) : (awaitBusack s).2.eng = { s.eng with lineBusrq := true } :=
  (awaitBusack_worldMove s).eng

/-! ### The owner of the bus -/

/-- Who owns the bus is read from the engine without its slots. -/
theorem BusOwnershipOk.of_sansSlots {s t : State} (hs : BusOwnershipOk s)
    (h : t.eng.sansSlots = s.eng.sansSlots) : BusOwnershipOk t := by
  have ht : BusOwnershipOk (s.withEng t.eng.sansSlots) := h ▸ hs
  exact ht

theorem BusOwnershipOk.of_frame {s t : State} (hs : BusOwnershipOk s) (h : CallbackFrame s t) :
    BusOwnershipOk t := hs.of_sansSlots h.engine

namespace BusOwnershipOk

variable {s t : State}

theorem move (hs : BusOwnershipOk s) (h : WorldMove s t) : BusOwnershipOk t :=
  hs.of_frame h.callbackFrame

/-- Giving the bus back deasserts BUSRQ and stops driving. -/
theorem releaseMastership (hs : BusOwnershipOk s) : BusOwnershipOk (releaseMastership s) := by
  obtain ⟨hnone, hclear, hbus, hreset, hnmi, hirq, -, -, -⟩ := hs
  rw [releaseMastership_frame]
  exact ⟨hnone, hclear, hbus, hreset, hnmi, hirq, rfl, rfl, nofun⟩

theorem act_eq_cleared (hs : BusOwnershipOk s) (h : s.eng.act.status = .none) :
    s.eng.act = BusActionState.cleared := by
  obtain ⟨-, hclear, -⟩ := hs
  exact hclear h

/-- An engine with an action in progress does not master the bus, nor asks for it or drives it. -/
theorem off_bus (hs : BusOwnershipOk s) (h : s.eng.act.status ≠ .none) :
    s.eng.mastered = false ∧ s.eng.lineBusrq = false ∧ s.eng.busDriven = false := by
  obtain ⟨-, -, -, -, -, -, hbusrq, hdriven, hfree⟩ := hs
  have hm : s.eng.mastered = false := by simpa using mt hfree h
  exact ⟨hm, hbusrq.trans hm, hdriven.trans hm⟩

/-- While no action is asserted no pulse line is. -/
theorem pulse_lines_off (hs : BusOwnershipOk s) (h : s.eng.act.status ≠ .asserted) :
    s.eng.lineReset = false ∧ s.eng.lineNmi = false ∧ s.eng.lineIrq = false := by
  obtain ⟨-, -, -, hreset, hnmi, hirq, -⟩ := hs
  simp_all

/-- An engine with no action and no pulse line asserted asks for the bus and drives it as it masters it. -/
theorem of_cleared (hact : s.eng.act = BusActionState.cleared) (hreset : s.eng.lineReset = false)
    (hnmi : s.eng.lineNmi = false) (hirq : s.eng.lineIrq = false)
    (hbusrq : s.eng.lineBusrq = s.eng.mastered) (hdriven : s.eng.busDriven = s.eng.mastered) :
    BusOwnershipOk s := by
  simp [BusOwnershipOk, hact, BusActionState.cleared, hreset, hnmi, hirq, hbusrq, hdriven]

/-! ### Mastership -/

theorem requestAndTake (hs : BusOwnershipOk s) : BusOwnershipOk (requestAndTake s).2 := by
  obtain h | ⟨hm, hst, h⟩ := requestAndTake_cases s
  · rwa [h]
  · have hact := hs.act_eq_cleared hst
    obtain ⟨hreset, hnmi, hirq⟩ := hs.pulse_lines_off (by simp [hst])
    obtain ⟨-, -, -, -, -, -, -, hdriven, -⟩ := hs
    have heng := awaitBusack_eng s
    obtain h | h := h <;> rw [h]
    · apply of_cleared <;> simp [takeMastership_frame, heng, hact, hreset, hnmi, hirq]
    · apply of_cleared <;> simp [deassertLine, setLine, heng, hact, hreset, hnmi, hirq, hm, hdriven]

/-! ### The arbiter -/

/-- A request is taken while no action is in progress and the bus is not mastered. -/
theorem checkPending (hs : BusOwnershipOk s) : BusOwnershipOk (checkPending s) := by
  obtain h | ⟨hst, hm, j, a, r, k, ha, -, h⟩ := checkPending_cases s
  · rwa [h]
  · obtain ⟨hreset, hnmi, hirq⟩ := hs.pulse_lines_off (by simp [hst])
    obtain ⟨-, -, -, -, -, -, hbusrq, hdriven, -⟩ := hs
    rw [h]
    simp [BusOwnershipOk, setAct, ha, hreset, hnmi, hirq, hbusrq, hdriven, hm]

/-- A pending Reset, NMI or IRQ asserts its own line and no other. -/
theorem assertPulse (hs : BusOwnershipOk s) (hst : s.eng.act.status = .pending)
    (ha : isPulse s.eng.act.action = true) (d : Nat) :
    BusOwnershipOk (assertPulse s.eng.act.action d s).2 := by
  obtain ⟨hm, hbusrq, hdriven⟩ := hs.off_bus (by simp [hst])
  obtain ⟨hreset, hnmi, hirq⟩ := hs.pulse_lines_off (by simp [hst])
  have heng := (assertLine_worldMove s.eng.act.action s).eng
  obtain hact | hact | hact := isPulse_iff.mp ha <;> rw [hact] at heng ⊢ <;>
    simp [BusOwnershipOk, Machine.assertPulse, setAct, setLine, heng, hact, hreset, hnmi, hirq,
      hbusrq, hdriven, hm]

/-- A pending BusRequest owns the bus while it notifies all, with its action cleared, or gives up BUSRQ. -/
theorem busRequestHandshake (hs : BusOwnershipOk s) (hst : s.eng.act.status = .pending) :
    BusOwnershipOk (busRequestHandshake s).2 := by
  obtain ⟨hm, hbusrq, hdriven⟩ := hs.off_bus (by simp [hst])
  obtain ⟨hreset, hnmi, hirq⟩ := hs.pulse_lines_off (by simp [hst])
  have heng := awaitBusack_eng s
  obtain h | h := busRequestHandshake_cases s <;> rw [h]
  · have hlent : BusOwnershipOk (clearAction (takeMastership (awaitBusack s).2)) := by
      apply of_cleared <;>
        simp [clearAction, setAct, takeMastership_frame, heng, hreset, hnmi, hirq]
    refine releaseMastership (hlent.of_frame (notifyAll_callbackFrame _ fun _ _ => ?_))
    simp [clearAction, setAct, takeMastership_frame]
  · have hfail : BusOwnershipOk (clearAction (deassertLine .busRequest (awaitBusack s).2)) := by
      apply of_cleared <;>
        simp [clearAction, setAct, deassertLine, setLine, heng, hreset, hnmi, hirq, hm, hdriven]
    exact hfail.of_frame (notifyAll_callbackFrame_of_ne _ (.inr (by decide)) _)

theorem startPending (hs : BusOwnershipOk s) : BusOwnershipOk (startPending s).2 := by
  obtain h | ⟨hst, ha, d, h⟩ | ⟨hst, -, h⟩ := startPending_cases s <;> rw [h]
  · exact hs
  · exact hs.assertPulse hst ha d
  · exact hs.busRequestHandshake hst

/-- The end of an asserted action deasserts its line, which is the only one asserted. -/
theorem clear_asserted (hs : BusOwnershipOk s) (hst : s.eng.act.status = .asserted) :
    BusOwnershipOk (clearAction (deassertLine s.eng.act.action s)) := by
  obtain ⟨hm, hbusrq, hdriven⟩ := hs.off_bus (by simp [hst])
  obtain ⟨-, -, hbus, hreset, hnmi, hirq, -⟩ := hs
  cases hact : s.eng.act.action <;> apply of_cleared <;>
    simp_all [clearAction, setAct, deassertLine, setLine]

theorem clear_pending (hs : BusOwnershipOk s) (hst : s.eng.act.status = .pending) :
    BusOwnershipOk (clearAction s) := by
  obtain ⟨hm, hbusrq, hdriven⟩ := hs.off_bus (by simp [hst])
  obtain ⟨hreset, hnmi, hirq⟩ := hs.pulse_lines_off (by simp [hst])
  exact of_cleared rfl hreset hnmi hirq (hbusrq.trans hm.symm) (hdriven.trans hm.symm)

theorem now (hs : BusOwnershipOk s) : BusOwnershipOk (now s).2 := hs.move (now_worldMove s)

theorem advancePending (hs : BusOwnershipOk s) : BusOwnershipOk (advancePending s) := by
  obtain h | h | ⟨hst, ha, h⟩ := advancePending_cases s <;> rw [h]
  · exact hs
  · exact hs.now
  · have hnotify := notifyAll_callbackFrame_of_ne (o := .ok) s.eng.act.reason
      (.inl (isPulse_ne_busRequest ha)) (deassertLine s.eng.act.action (Machine.now s).2)
    have hend := hs.now.clear_asserted (by simpa using hst)
    rw [now_eng] at hend
    exact hend.of_frame hnotify.clearAction

theorem actionTimeoutCheck (hs : BusOwnershipOk s) : BusOwnershipOk (actionTimeoutCheck s) := by
  obtain h | h | ⟨hst, h⟩ | ⟨hst, h⟩ := actionTimeoutCheck_cases s <;> rw [h]
  · exact hs
  · exact hs.now
  · have hend := hs.now.clear_asserted (by simpa using hst)
    rw [now_eng] at hend
    exact hend.of_frame (notifyAll_callbackFrame_of_ne _ (.inr (by decide)) _)
  · have hend := hs.now.clear_pending (by simpa using hst)
    exact hend.of_frame (notifyAll_callbackFrame_of_ne _ (.inr (by decide)) _)

theorem waitBlind : WaitBlind BusOwnershipOk where
  toCallbackStable := .of_frame of_frame
  anyWorld _ hs := hs
  wait _ _ hs _ := hs

end BusOwnershipOk

theorem BusOwnershipOk.stepStable : StepStable BusOwnershipOk where
  toCallbackStable := .of_frame BusOwnershipOk.of_frame
  port _ hs := hs
  add info w d hs := by
    unfold addSocket
    simp only
    split <;> exact hs
  diag := BusOwnershipOk.waitBlind.diagEvents
  wait := BusOwnershipOk.waitBlind.tickWait
  advance := BusOwnershipOk.advancePending
  timeout := BusOwnershipOk.actionTimeoutCheck
  check := BusOwnershipOk.checkPending
  start := BusOwnershipOk.startPending
  take := BusOwnershipOk.requestAndTake
  release := BusOwnershipOk.releaseMastership

/-- Settles O55: every part of a step keeps the bus with one owner. -/
theorem stepKeepsBusOwnership : Obligations.StepKeepsBusOwnership := fun _ _ hs h =>
  BusOwnershipOk.stepStable.step hs h

end Sys2Proof.Machine
end

section
/-! SUPPORT. The wait state and the time stamps along a step (10_state.md R23, 41_wait_service.md R170,
60_exceptions.md R427). -/

namespace Sys2Proof.Machine

/-- The wait state is coherent, in a machine whose clock has reached `c`. -/
def WaitKept (c : Nat) (s : State) : Prop := WaitOk s ∧ c ≤ s.world.clock

/-- No time stamp lies in the future, whatever the wait state (60_exceptions.md R427). -/
structure StampsOk (c : Nat) (s : State) : Prop where
  wait : s.eng.wait.assertedAt ≤ s.world.clock
  start : s.eng.act.startTime ≤ s.world.clock
  assert : s.eng.act.assertedAt ≤ s.world.clock
  floor : c ≤ s.world.clock

/-- A wait that the detect step has latched and no part of the tick has held or released yet
(41_wait_service.md R172). -/
structure Latched (c : Nat) (s : State) : Prop extends StampsOk c s where
  asserted : s.eng.wait.asserted = true
  held : s.eng.wait.held = false
  present : s.world.present.isSome = true

theorem StampsOk.later {c : Nat} {s t : State} (hs : StampsOk c s)
    (hwait : t.eng.wait.assertedAt = s.eng.wait.assertedAt) (hact : t.eng.act = s.eng.act)
    (hclock : s.world.clock ≤ t.world.clock) : StampsOk c t :=
  ⟨hwait ▸ hs.wait.trans hclock, hact ▸ hs.start.trans hclock, hact ▸ hs.assert.trans hclock,
    hs.floor.trans hclock⟩

theorem StampsOk.move {c : Nat} {s t : State} (hs : StampsOk c s) (h : WorldMove s t) : StampsOk c t :=
  hs.later (by rw [h.eng]) (by rw [h.eng]) h.clock

theorem Latched.of_frame {c : Nat} {s t : State} (hs : Latched c s) (h : CallbackFrame s t) :
    Latched c t :=
  ⟨hs.toStampsOk.later h.assertedAt h.act h.clock, h.asserted.trans hs.asserted, h.held.trans hs.held,
    h.present hs.present⟩

theorem Latched.move {c : Nat} {s t : State} (hs : Latched c s) (h : WorldMove s t) : Latched c t :=
  hs.of_frame h.callbackFrame

theorem Latched.setCur {c : Nat} {s : State} (hs : Latched c s) (cur : CycleRecord) :
    Latched c (setWaitState { s.eng.wait with cur := cur } s) :=
  ⟨hs.toStampsOk.later rfl rfl (le_refl _), hs.asserted, hs.held, hs.present⟩

/-- A latched wait that is held stays asserted, with its cycle presented (41_wait_service.md R177). -/
theorem Latched.hold {c : Nat} {s : State} (hs : Latched c s) :
    WaitKept c (setWaitState { s.eng.wait with held := true } s) :=
  ⟨⟨hs.asserted, fun _ => hs.present, hs.wait, hs.start, hs.assert⟩, hs.floor⟩

theorem releaseWait_eng (driven : Option Byte) (s : State) : (releaseWait driven s).eng = s.eng := by
  obtain ⟨-, heng, -⟩ := releaseWait_sameBlock driven s
  exact heng

theorem StampsOk.releaseWait {c : Nat} {s : State} (hs : StampsOk c s) (driven : Option Byte) :
    StampsOk c (releaseWait driven s) :=
  hs.later (by rw [releaseWait_eng]) (by rw [releaseWait_eng]) (releaseWait_clock driven s)

namespace WaitKept

variable {c : Nat} {s t : State}

theorem stampsOk (hs : WaitKept c s) : StampsOk c s := by
  obtain ⟨⟨-, -, hwait, hstart, hassert⟩, hfloor⟩ := hs
  exact ⟨hwait, hstart, hassert, hfloor⟩

theorem of_frame (hs : WaitKept c s) (h : CallbackFrame s t) : WaitKept c t := by
  obtain ⟨hwait, hstart, hassert, hfloor⟩ := hs.stampsOk.later h.assertedAt h.act h.clock
  obtain ⟨⟨heq, hpresent, -⟩, -⟩ := hs
  refine ⟨⟨?_, fun ha => h.present (hpresent ?_), hwait, hstart, hassert⟩, hfloor⟩
  · rw [h.asserted, h.held, heq]
  · rwa [← h.asserted]

theorem move (hs : WaitKept c s) (h : WorldMove s t) : WaitKept c t := hs.of_frame h.callbackFrame

theorem now (hs : WaitKept c s) : WaitKept c (now s).2 := hs.move (now_worldMove s)

/-- A wait that is neither asserted nor held. -/
theorem of_released (hs : StampsOk c s) (ha : s.eng.wait.asserted = false)
    (hh : s.eng.wait.held = false) : WaitKept c s :=
  ⟨⟨ha.trans hh.symm, fun h => absurd h (by simp [ha]), hs.wait, hs.start, hs.assert⟩, hs.floor⟩

/-- An engine with the same wait and the same action. -/
theorem withEng (hs : WaitKept c s) {e : Engine} (ha : e.wait.asserted = s.eng.wait.asserted)
    (hh : e.wait.held = s.eng.wait.held) (ht : e.wait.assertedAt = s.eng.wait.assertedAt)
    (hact : e.act = s.eng.act) : WaitKept c (s.withEng e) := by
  simpa only [WaitKept, WaitOk, State.withEng_eng, State.withEng_world, ha, hh, ht, hact] using hs

theorem setAct (hs : WaitKept c s) {a : BusActionState} (hstart : a.startTime ≤ s.world.clock)
    (hassert : a.assertedAt ≤ s.world.clock) : WaitKept c (setAct a s) := by
  obtain ⟨⟨heq, hpresent, hwait, -, -⟩, hfloor⟩ := hs
  exact ⟨⟨heq, hpresent, hwait, hstart, hassert⟩, hfloor⟩

theorem clearAction (hs : WaitKept c s) : WaitKept c (clearAction s) :=
  hs.setAct (Nat.zero_le _) (Nat.zero_le _)

theorem setLine (hs : WaitKept c s) (a : BusAction) (v : Bool) : WaitKept c (setLine a v s) := by
  cases a with
  | none => exact hs
  | reset => exact hs.withEng rfl rfl rfl rfl
  | nmi => exact hs.withEng rfl rfl rfl rfl
  | irq => exact hs.withEng rfl rfl rfl rfl
  | busRequest => exact hs.withEng rfl rfl rfl rfl

theorem deassertLine (hs : WaitKept c s) (a : BusAction) : WaitKept c (deassertLine a s) :=
  hs.setLine a false

theorem assertLine (hs : WaitKept c s) (a : BusAction) : WaitKept c (assertLine a s) :=
  (hs.setLine a true).move (assertLine_worldMove a s)

theorem awaitBusack (hs : WaitKept c s) : WaitKept c (awaitBusack s).2 :=
  (hs.setLine .busRequest true).move (awaitBusack_worldMove s)

theorem takeMastership (hs : WaitKept c s) : WaitKept c (takeMastership s) := by
  rw [takeMastership_frame]
  exact hs.withEng rfl rfl rfl rfl

theorem releaseMastership (hs : WaitKept c s) : WaitKept c (releaseMastership s) := by
  rw [releaseMastership_frame]
  exact hs.withEng rfl rfl rfl rfl

theorem requestAndTake (hs : WaitKept c s) : WaitKept c (requestAndTake s).2 := by
  obtain h | ⟨-, -, h | h⟩ := requestAndTake_cases s <;> rw [h]
  · exact hs
  · exact hs.awaitBusack.takeMastership
  · exact hs.awaitBusack.deassertLine _

/-! ### The wait half of a tick -/

/-- The end of a serviced cycle releases the wait (41_wait_service.md R179). -/
theorem completeServiced (hs : StampsOk c s) : WaitKept c (completeServiced s) := by
  have hrel := hs.releaseWait (drivenByte s.eng.wait.cur)
  have hended : WaitKept c (setWaitState { (releaseWait (drivenByte s.eng.wait.cur) s).eng.wait with
      asserted := false, held := false } (releaseWait (drivenByte s.eng.wait.cur) s)) :=
    of_released (hrel.later rfl rfl (le_refl _)) rfl rfl
  exact hended.now.withEng rfl rfl rfl rfl

/-- A decode timeout releases the wait, which no socket has held yet (41_wait_service.md R174). -/
theorem decodeTimeout (hs : StampsOk c s) (hh : s.eng.wait.held = false) :
    WaitKept c (decodeTimeout s) := by
  unfold Machine.decodeTimeout
  simp only
  have hcount : StampsOk c (s.withEng { s.eng with counters := { s.eng.counters with
      decodeTimeout := s.eng.counters.decodeTimeout + 1 } }) := hs.later rfl rfl (le_refl _)
  refine of_released ((hcount.releaseWait none).later rfl rfl (le_refl _)) rfl ?_
  simp [setWaitState, releaseWait_eng, hh]

theorem dispatchCycle (hs : Latched c s) (f : CtrlFlags) : WaitKept c (dispatchCycle f s) := by
  have hdata := (hs.move (sampleCtrl_worldMove s)).move (sampleData_worldMove _)
  have hfan := fun a d g hands => hdata.of_frame (fanOut_callbackFrame a d g hands _)
  unfold Machine.dispatchCycle
  simp only
  split
  · exact ((hfan _ _ _ _).setCur _).hold
  · exact completeServiced ((hfan _ _ _ _).setCur _).toStampsOk

theorem decodeAndDispatch (hs : Latched c s) : WaitKept c (decodeAndDispatch s) := by
  have hloop := hs.move (settleLoop_worldMove s.cfg.settleRetries s)
  unfold Machine.decodeAndDispatch
  split <;> (rename_i heq; rw [heq] at hloop)
  · exact decodeTimeout hloop.toStampsOk hloop.held
  · exact dispatchCycle hloop _

/-- The detect step latches a wait that is seen, with the time now (41_wait_service.md R172). -/
theorem waitDetect (hs : WaitKept c s) (ha : s.eng.wait.asserted = false) : WaitKept c (waitDetect s) := by
  have hack := hs.move (sampleBusack_worldMove s)
  have hh : s.eng.wait.held = false := by
    obtain ⟨⟨heq, -⟩, -⟩ := hs
    rw [← heq, ha]
  unfold Machine.waitDetect
  simp only
  split
  · rename_i hw
    have hseen : s.world.present.isSome = true := by
      simp only [sampleWait, Bool.and_eq_true] at hw
      exact hw.1
    have hset : StampsOk c (setWaitState { (sampleBusack s).2.eng.wait with asserted := true }
        (sampleBusack s).2) := hack.stampsOk.later rfl rfl (le_refl _)
    have hnow := hset.move (now_worldMove _)
    exact decodeAndDispatch ⟨⟨(now_clock _).ge, hnow.start, hnow.assert, hnow.floor⟩,
      by simp [setWaitState], by simp [setWaitState, hh], by simpa [setWaitState] using hseen⟩
  · exact hack

theorem tickWait (hs : WaitKept c s) : WaitKept c (tickWait s) := by
  unfold Machine.tickWait
  split
  · rename_i ha
    exact hs.waitDetect (by simpa using ha)
  · split
    · exact completeServiced hs.stampsOk
    · exact hs

/-! ### The action half of a tick -/

theorem checkPending (hs : WaitKept c s) : WaitKept c (checkPending s) := by
  obtain h | ⟨-, -, j, a, r, k, -, -, h⟩ := checkPending_cases s <;> rw [h]
  · exact hs
  · have hslot : WaitKept c (setSock j k s) := hs.withEng rfl rfl rfl rfl
    exact hslot.now.setAct (now_clock _).ge (Nat.zero_le _)

theorem assertPulse (hs : WaitKept c s) (a : BusAction) (d : Nat) :
    WaitKept c (assertPulse a d s).2 := by
  have hline := hs.assertLine a
  have hdur : WaitKept c (Machine.setAct { s.eng.act with durationUs := d } (Machine.assertLine a s)) :=
    hline.setAct (by simpa using hline.stampsOk.start) (by simpa using hline.stampsOk.assert)
  exact hdur.now.setAct hdur.now.stampsOk.start (now_clock _).ge

theorem startPending (hs : WaitKept c s) : WaitKept c (startPending s).2 := by
  obtain h | ⟨-, -, d, h⟩ | ⟨-, -, h⟩ := startPending_cases s <;> rw [h]
  · exact hs
  · exact hs.assertPulse _ d
  · obtain h | h := busRequestHandshake_cases s <;> rw [h]
    · have hlent := hs.awaitBusack.takeMastership.clearAction
      refine (hlent.of_frame (notifyAll_callbackFrame _ fun _ _ => ?_)).releaseMastership
      simp [Machine.clearAction, Machine.setAct, takeMastership_frame]
    · have hfail := (hs.awaitBusack.deassertLine .busRequest).clearAction
      exact hfail.of_frame (notifyAll_callbackFrame_of_ne _ (.inr (by decide)) _)

theorem advancePending (hs : WaitKept c s) : WaitKept c (advancePending s) := by
  obtain h | h | ⟨-, ha, h⟩ := advancePending_cases s <;> rw [h]
  · exact hs
  · exact hs.now
  · have hnotify := notifyAll_callbackFrame_of_ne (o := .ok) s.eng.act.reason
      (.inl (isPulse_ne_busRequest ha)) (Machine.deassertLine s.eng.act.action (Machine.now s).2)
    exact ((hs.now.deassertLine _).of_frame hnotify).clearAction

theorem actionTimeoutCheck (hs : WaitKept c s) : WaitKept c (actionTimeoutCheck s) := by
  obtain h | h | ⟨-, h⟩ | ⟨-, h⟩ := actionTimeoutCheck_cases s <;> rw [h]
  · exact hs
  · exact hs.now
  · exact (hs.now.deassertLine _).clearAction.of_frame
      (notifyAll_callbackFrame_of_ne _ (.inr (by decide)) _)
  · exact hs.now.clearAction.of_frame (notifyAll_callbackFrame_of_ne _ (.inr (by decide)) _)

theorem diagEvents (hs : WaitKept c s) : WaitKept c (diagEvents s) :=
  (hs.move (drawDiag_worldMove s)).withEng rfl rfl rfl rfl

theorem addSocket (hs : WaitKept c s) (info : SocketInfo) (w : WaitCallback) (d : DoneCallback) :
    WaitKept c (addSocket info w d s).2 := by
  unfold Machine.addSocket
  simp only
  split
  · exact hs
  · exact hs.withEng rfl rfl rfl rfl

end WaitKept

theorem WaitKept.stepStable (c : Nat) : StepStable (WaitKept c) where
  toCallbackStable := .of_frame WaitKept.of_frame
  port _ hs := hs
  add info _ _ hs := hs.addSocket info _ _
  diag := WaitKept.diagEvents
  wait := WaitKept.tickWait
  advance := WaitKept.advancePending
  timeout := WaitKept.actionTimeoutCheck
  check := WaitKept.checkPending
  start := WaitKept.startPending
  take := WaitKept.requestAndTake
  release := WaitKept.releaseMastership

/-- Settles O57: every part of a step keeps the wait state coherent and the clock where it was or later. -/
theorem stepKeepsWaitAndTime : Obligations.StepKeepsWaitAndTime := fun s _ hs h =>
  (WaitKept.stepStable s.world.clock).step ⟨hs, le_refl _⟩ h

end Sys2Proof.Machine
end

section
/-! SUPPORT. What a bus cycle does to memory (20_memory.md R86, R87, R93): nothing, or the store of one
byte, and that only while memory is not paged out. -/

namespace Sys2Proof.Machine

/-- All that a bus cycle does to memory: it leaves it, or it stores one byte where memory is not paged out
(20_memory.md R86, R87). -/
def CycleStores (s t : State) : Prop :=
  t.world.mem = s.world.mem ∨
  s.trk.pageOut = false ∧ ∃ a b, t.world.mem = Memory.write s.world.mem a b

/-- While memory is paged out a bus cycle leaves it. -/
theorem CycleStores.mem_of_pageOut {s t : State} (h : CycleStores s t) (hp : s.trk.pageOut = true) :
    t.world.mem = s.world.mem := by
  obtain hmem | ⟨hoff, -⟩ := h
  · exact hmem
  · simp [hp] at hoff

theorem completeCycle_stores (driven : Option Byte) (c : Presented) (s : State) :
    CycleStores s (completeCycle driven c s).2 := by
  have hmem := completeCycle_mem driven c s
  split at hmem
  · rename_i hw
    obtain ⟨-, -, hoff⟩ := hw
    exact .inr ⟨hoff, c.addr, c.data, hmem⟩
  · exact .inl hmem

/-- The release of a wait ends the presented cycle, where there is one. -/
theorem releaseWait_stores (driven : Option Byte) (s : State) : CycleStores s (releaseWait driven s) := by
  unfold releaseWait
  split
  · exact .inl rfl
  · rename_i c hc
    have h := completeCycle_stores driven c (s.withWorld { s.world with present := none })
    split <;> (rename_i heq; rw [heq] at h; exact h)

/-- A cycle that begins is presented, and leaves memory, or ends at once. -/
theorem startCycle_stores (f : CtrlFlags) (a : Addr) (d : Byte) (b : Bool) (s : State) :
    CycleStores s (startCycle f a d b s) := by
  unfold startCycle
  split
  · exact .inl (drawSettle_mem s)
  · exact completeCycle_stores _ _ _

theorem outsideMove_stores (m : Z80Move) (s : State) : CycleStores s (outsideMove m s) := by
  cases m with
  | cycle f a d =>
    simp only [outsideMove, foreignCycle]
    split
    · exact .inl rfl
    · exact startCycle_stores _ _ _ _ _
  | become r =>
    simp only [outsideMove, foreignRegs]
    split <;> exact .inl rfl

theorem z80Cycle_stores (s : State) : CycleStores s (z80Cycle s) := by
  obtain ⟨-, h⟩ | ⟨-, f, a, d, h⟩ | ⟨-, h⟩ | ⟨-, m, h⟩ := z80Cycle_cases s <;> rw [h]
  · exact .inl rfl
  · exact startCycle_stores _ _ _ _ _
  · exact .inl (z80Step_mem id s)
  · exact outsideMove_stores m (s.withWorld { s.world with draws := s.world.draws + 1 })

/-- While memory is paged out the Z80 runs no whole instruction: it makes its next bus cycle. -/
theorem z80Turn_of_pageOut {s : State} (hp : s.trk.pageOut = true) : z80Turn s = .next (z80Cycle s) := by
  have hfree : z80Free s = false := by simp [z80Free, hp]
  simp [z80Turn, hfree]

/-- Settles O60: a released cycle, a cycle that begins and a move of the Z80 are bus cycles, which store
nothing while memory is paged out. -/
theorem pagedOutMemoryIsUntouched : Obligations.PagedOutMemoryIsUntouched := by
  intro s driven f a d b hp
  refine ⟨(releaseWait_stores driven s).mem_of_pageOut hp,
    (startCycle_stores f a d b s).mem_of_pageOut hp, fun t h => ?_⟩
  rw [z80Turn_of_pageOut hp] at h
  cases h
  exact (z80Cycle_stores s).mem_of_pageOut hp

end Sys2Proof.Machine
end

section
/-! SUPPORT. The mirror (10_state.md R35) along the tracker's callbacks and commands: only a BusRequest that
completes writes it, with a copy of memory (45_tracker.md R328, R330). -/

namespace Sys2Proof.Machine

@[simp] theorem changeSocket_trk (h : Nat) (f : Socket → Socket) (s : State) :
    (changeSocket h f s).2.trk = s.trk := by
  rw [changeSocket_frame, State.withEng_trk]

@[simp] theorem enableSocket_trk (h : Nat) (e : Bool) (s : State) : (enableSocket h e s).2.trk = s.trk :=
  changeSocket_trk _ _ _

@[simp] theorem setWaitOn_trk (h : Nat) (m i : Bool) (s : State) : (setWaitOn h m i s).2.trk = s.trk :=
  changeSocket_trk _ _ _

@[simp] theorem setHold_trk (h : Nat) (d : Bool) (s : State) : (setHold h d s).2.trk = s.trk :=
  changeSocket_trk _ _ _

@[simp] theorem requestBus_trk (h : Nat) (r : Byte) (s : State) : (requestBus h r s).2.trk = s.trk := by
  unfold requestBus
  split
  · split <;> rfl
  · rfl

@[simp] theorem requestMirror_trk (s : State) : (requestMirror s).trk = s.trk := requestBus_trk _ _ _

@[simp] theorem recordFetch_mirror (rb : Byte) (s : State) : (recordFetch rb s).trk.mirror = s.trk.mirror :=
  rfl

@[simp] theorem resetHistory_mirror (s : State) : (resetHistory s).trk.mirror = s.trk.mirror := rfl

@[simp] theorem releaseHold_mirror (s : State) : (releaseHold s).trk.mirror = s.trk.mirror := by
  unfold releaseHold
  split <;> simp

@[simp] theorem doDisable_mirror (s : State) : (doDisable s).trk.mirror = s.trk.mirror := by
  simp [doDisable]

@[simp] theorem finishRegs_mirror (t : Tracker) : (finishRegs t).mirror = t.mirror := by
  unfold finishRegs
  split
  · split <;> rfl
  · rfl

@[simp] theorem finishInjection_mirror (s : State) : (finishInjection s).trk.mirror = s.trk.mirror := by
  unfold finishInjection
  simp only
  split <;> simp

@[simp] theorem injectStep_mirror (addr : Addr) (data : Byte) (f : CtrlFlags) (s : State) :
    (injectStep addr data f s).2.trk.mirror = s.trk.mirror := by
  have hlast : ∀ u : State, (if u.trk.cursor = u.trk.seq.length then finishInjection u else u).trk.mirror =
      u.trk.mirror := by
    intro u
    split <;> simp
  unfold injectStep
  split
  · simp only [hlast]
    split <;> rfl
  · split
    · simp only
      split <;> simp [captureWrite]
    · rfl

@[simp] theorem noteBreak_mirror (addr : Addr) (hit : Option (BpTable × Nat × String)) (s : State) :
    (noteBreak addr hit s).trk.mirror = s.trk.mirror := by
  unfold noteBreak
  split <;> rfl

@[simp] theorem startInjection_mirror (addr : Addr) (hit : Bool) (s : State) :
    (startInjection addr hit s).trk.mirror = s.trk.mirror := by
  simp only [startInjection, State.withTrk_trk]
  split <;> rfl

@[simp] theorem takeHold_mirror (data : Byte) (s : State) : (takeHold data s).trk.mirror = s.trk.mirror := by
  simp [takeHold]

@[simp] theorem boundaryStep_mirror (addr : Addr) (data : Byte) (f : CtrlFlags) (s : State) :
    (boundaryStep addr data f s).2.trk.mirror = s.trk.mirror := by
  unfold boundaryStep
  simp only
  split
  · simp
  · split
    · simp
    · split <;> simp

/-- No wait cycle writes the mirror (45_tracker.md R320). -/
@[simp] theorem trackerOnWaitCycle_mirror (addr : Addr) (data : Byte) (f : CtrlFlags) (s : State) :
    (trackerOnWaitCycle addr data f s).2.trk.mirror = s.trk.mirror := by
  unfold trackerOnWaitCycle
  split
  · rfl
  · split
    · simp
    · split
      · rfl
      · simp

@[simp] theorem abortInjection_mirror (s : State) : (abortInjection s).trk.mirror = s.trk.mirror := by
  unfold abortInjection
  split
  · simp only
    split <;> simp
  · rfl

/-- The end of a bus action leaves the mirror or makes it a copy of memory (45_tracker.md R330). -/
theorem trackerOnComplete_mirror (a : BusAction) (reason : Byte) (o : ActOutcome) (s : State) :
    (trackerOnComplete a reason o s).trk.mirror = s.trk.mirror ∨
    (trackerOnComplete a reason o s).trk.mirror = s.world.mem := by
  have hpulse : (if s.trk.state = .injecting then s.withTrk { s.trk with disturbed := true }
      else s).trk.mirror = s.trk.mirror := by
    split <;> rfl
  cases a with
  | none => exact .inl rfl
  | reset => exact .inl (by simp [trackerOnComplete])
  | nmi => exact .inl hpulse
  | irq => exact .inl hpulse
  | busRequest =>
    simp only [trackerOnComplete]
    split
    · split
      · unfold mirrorMemory
        split
        · exact .inr rfl
        · exact .inl rfl
      · exact .inl rfl
    · exact .inl rfl

end Sys2Proof.Machine
end

section
/-! SUPPORT. The canonical form of memory and the mirror along a step (20_memory.md R80, R81, log entry 2):
memory is only written a byte at a time, and the mirror only as a copy of memory. -/

namespace Sys2Proof.Machine

theorem SameBlock.trk {s t : State} (h : SameBlock s t) : t.trk = s.trk := by
  obtain ⟨-, -, htrk, -⟩ := h
  exact htrk

theorem OnlyTime.mem {s t : State} (h : OnlyTime s t) : t.world.mem = s.world.mem := by
  obtain ⟨-, -, -, -, -, hworld, -⟩ := h
  simp only [SameWorldButTime] at hworld
  rw [← hworld]

theorem OnlyEngTrk.world {s t : State} (h : OnlyEngTrk s t) : t.world = s.world := by
  obtain ⟨-, -, -, hworld⟩ := h
  exact hworld

namespace MemoryOk

variable {s t : State}

/-- Neither memory nor the mirror is written. -/
theorem of_eq (hs : MemoryOk s) (hmem : t.world.mem = s.world.mem)
    (hmirror : t.trk.mirror = s.trk.mirror) : MemoryOk t := by
  obtain ⟨hm, hr⟩ := hs
  exact ⟨hmem ▸ hm, hmirror ▸ hr⟩

/-- The tracker's parts write no memory. -/
theorem of_onlyEngTrk (hs : MemoryOk s) (h : OnlyEngTrk s t) (hmirror : t.trk.mirror = s.trk.mirror) :
    MemoryOk t :=
  hs.of_eq (by rw [h.world]) hmirror

/-- The byte that a bus cycle stores keeps the form. -/
theorem of_cycle (hs : MemoryOk s) (hb : SameBlock s t) (h : CycleStores s t) : MemoryOk t := by
  obtain ⟨hm, hr⟩ := hs
  refine ⟨?_, hb.trk ▸ hr⟩
  obtain hmem | ⟨-, a, b, hmem⟩ := h <;> rw [hmem]
  · exact hm
  · exact Memory.write_wf hm a b

/-! ### Draws and samples -/

theorem now (hs : MemoryOk s) : MemoryOk (now s).2 := hs.of_eq (now_mem s) (by rw [now_trk])

theorem nextTurn (hs : MemoryOk s) : MemoryOk (nextTurn s).2 := by
  unfold Machine.nextTurn
  split <;> exact hs

theorem sampleCtrl (hs : MemoryOk s) : MemoryOk (sampleCtrl s).2 := by
  unfold Machine.sampleCtrl
  split
  · exact hs
  · split
    · split <;> exact hs
    · exact hs

theorem settleLoop (hs : MemoryOk s) (n : Nat) : MemoryOk (settleLoop n s).2 := by
  induction n generalizing s with
  | zero => exact hs
  | succ n ih =>
    simp only [Machine.settleLoop]
    split
    · exact hs.sampleCtrl
    · exact ih hs.sampleCtrl

theorem drawByte (hs : MemoryOk s) : MemoryOk (drawByte s).2 :=
  hs.of_eq (drawByte_mem s) (by rw [drawByte_trk])

theorem sampleData (hs : MemoryOk s) : MemoryOk (sampleData s).2 := by
  unfold Machine.sampleData
  split
  · exact hs.drawByte
  · split
    · split
      · exact hs
      · exact hs.drawByte
    · exact hs

/-! ### The Z80 -/

theorem releaseWait (hs : MemoryOk s) (driven : Option Byte) : MemoryOk (releaseWait driven s) :=
  hs.of_cycle (releaseWait_sameBlock driven s) (releaseWait_stores driven s)

theorem z80Cycle (hs : MemoryOk s) : MemoryOk (z80Cycle s) :=
  hs.of_cycle (z80Cycle_sameBlock s) (z80Cycle_stores s)

theorem outsideMove (hs : MemoryOk s) (m : Z80Move) : MemoryOk (outsideMove m s) :=
  hs.of_cycle (outsideMove_sameBlock m s) (outsideMove_stores m s)

/-- A whole instruction of the Z80 stores its writes one after the other. -/
theorem runPlan (hs : MemoryOk s) (p : Plan) : MemoryOk (runPlan p s) := by
  obtain ⟨hm, hr⟩ := hs
  exact ⟨writeAll_wf hm, hr⟩

theorem execZ80 {i : Instr} (hi : i.isZ80 = true) (hs : MemoryOk s) (h : exec i s = .next t) :
    MemoryOk t := by
  obtain ⟨p, hp⟩ := Option.isSome_iff_exists.mp ((planOf_isSome i).trans hi)
  rw [exec_of_planOf hp] at h
  cases h
  split
  · exact hs.runPlan p
  · exact hs.z80Cycle

/-! ### Mastership and block transfers -/

theorem deassertLine (hs : MemoryOk s) (a : BusAction) : MemoryOk (deassertLine a s) :=
  hs.of_eq (by rw [deassertLine_world]) (by rw [deassertLine_trk])

/-- A line that is asserted may reset the Z80, not memory (70_reset_and_hazards.md R453). -/
theorem assertLine (hs : MemoryOk s) (a : BusAction) : MemoryOk (assertLine a s) := by
  cases a <;> exact hs

theorem awaitBusack (hs : MemoryOk s) : MemoryOk (awaitBusack s).2 := by
  have h := awaitBusack_onlyTime s
  exact (hs.assertLine .busRequest).of_eq h.mem (by rw [h.worldMove.block.trk])

theorem takeMastership (hs : MemoryOk s) : MemoryOk (takeMastership s) := by
  rw [takeMastership_frame]
  exact hs

theorem releaseMastership (hs : MemoryOk s) : MemoryOk (releaseMastership s) := by
  rw [releaseMastership_frame]
  exact hs

theorem requestAndTake (hs : MemoryOk s) : MemoryOk (requestAndTake s).2 := by
  obtain h | ⟨-, -, h | h⟩ := requestAndTake_cases s <;> rw [h]
  · exact hs
  · exact hs.awaitBusack.takeMastership
  · exact hs.awaitBusack.deassertLine _

theorem releaseBus (hs : MemoryOk s) : MemoryOk (releaseBus s).2 := by
  unfold Machine.releaseBus
  split
  · exact hs.releaseMastership
  · exact hs

theorem transferStable : TransferStable MemoryOk :=
  transferStable_of_mastership (fun _ => requestAndTake) (fun _ => releaseMastership)

theorem readBytes (hs : MemoryOk s) (io : Bool) (addr : Addr) (k n : Nat) :
    MemoryOk (readBytes io addr k n s).2 := by
  induction n generalizing k s with
  | zero => exact hs
  | succ n ih =>
    cases io with
    | false => exact ih hs (k + 1)
    | true => exact ih hs.drawByte (k + 1)

/-- Each byte of a block write is one store, or an I/O write (43_mastership_block_io.md R254). -/
theorem writeBytes (hs : MemoryOk s) (io : Bool) (addr : Addr) (k : Nat) (bs : List Byte) :
    MemoryOk (writeBytes io addr k bs s) := by
  induction bs generalizing k s with
  | nil => exact hs
  | cons b bs ih =>
    cases io with
    | false =>
      obtain ⟨hm, hr⟩ := hs
      exact ih ⟨memWrite_wf hm _ b, hr⟩ (k + 1)
    | true => exact ih (s := ioWrite (transferAddr addr k) b s) hs (k + 1)

theorem blockRead (hs : MemoryOk s) (addr : Addr) (len : Nat) (io auto : Bool) :
    MemoryOk (blockRead addr len io auto s).2 :=
  transferStable _ (fun _ hu => hu.readBytes io addr 0 len) len auto _ s hs

theorem blockWrite (hs : MemoryOk s) (addr : Addr) (buf : List Byte) (io auto : Bool) :
    MemoryOk (blockWrite addr buf io auto s).2 :=
  transferStable _ (fun _ hu => hu.writeBytes io addr 0 buf) buf.length auto _ s hs

/-! ### Sockets and callbacks -/

theorem changeSocket (hs : MemoryOk s) (h : Nat) (f : Socket → Socket) :
    MemoryOk (changeSocket h f s).2 := by
  rw [changeSocket_frame]
  exact hs

theorem addSocket (hs : MemoryOk s) (info : SocketInfo) (w : WaitCallback) (d : DoneCallback) :
    MemoryOk (addSocket info w d s).2 := by
  unfold Machine.addSocket
  simp only
  split <;> exact hs

theorem requestAction (hs : MemoryOk s) (h : Nat) (act : BitVec 2) (r : Byte) :
    MemoryOk (requestAction h act r s).2 := by
  unfold Machine.requestAction
  split
  · split
    · exact hs
    · split <;> exact hs
  · exact hs

theorem requestBus (hs : MemoryOk s) (h : Nat) (r : Byte) : MemoryOk (requestBus h r s).2 :=
  hs.of_onlyEngTrk (requestBus_onlyEngTrk h r s) (by rw [requestBus_trk])

theorem callbackCommand (hs : MemoryOk s) (m : Bool) (c : CbCommand) :
    MemoryOk (callbackCommand m c s).2 :=
  callbackCommand_keeps hs (fun h _ => hs.changeSocket h _) (fun h _ _ => hs.changeSocket h _)
    (fun h _ => hs.changeSocket h _) hs.requestAction hs.requestBus (fun _ _ _ => hs)
    (fun _ => hs.blockRead) (fun _ => hs.blockWrite) c

theorem runCallbackCommands (hs : MemoryOk s) (h : Nat) (m : Bool) (cs : List CbCommand) :
    MemoryOk (runCallbackCommands h m cs s) :=
  runCallbackCommands_keeps (P := MemoryOk) (fun c _ hu => hu.callbackCommand m c)
    (fun _ _ _ hu => hu) cs hs

theorem nextWaitReply (hs : MemoryOk s) (h : Nat) : MemoryOk (nextWaitReply h s).2 := by
  obtain ⟨r, rs, -, hn⟩ | ⟨r, hn⟩ | ⟨-, hn⟩ := nextWaitReply_cases h s <;> (rw [hn]; exact hs)

theorem nextDoneReply (hs : MemoryOk s) (h : Nat) : MemoryOk (nextDoneReply h s).2 := by
  obtain ⟨r, rs, -, hn⟩ | ⟨r, hn⟩ | ⟨-, hn⟩ := nextDoneReply_cases h s <;> (rw [hn]; exact hs)

theorem trackerOnWaitCycle (hs : MemoryOk s) (addr : Addr) (data : Byte) (f : CtrlFlags) :
    MemoryOk (trackerOnWaitCycle addr data f s).2 :=
  hs.of_onlyEngTrk (trackerOnWaitCycle_onlyEngTrk addr data f s) (trackerOnWaitCycle_mirror _ _ _ _)

/-- A mirror that is copied from memory has memory's form (45_tracker.md R330). -/
theorem trackerOnComplete (hs : MemoryOk s) (a : BusAction) (reason : Byte) (o : ActOutcome) :
    MemoryOk (trackerOnComplete a reason o s) := by
  have hworld := (trackerOnComplete_onlyEngTrk a reason o s).world
  obtain ⟨hm, hr⟩ := hs
  refine ⟨by rwa [hworld], ?_⟩
  obtain h | h := trackerOnComplete_mirror a reason o s <;> rwa [h]

theorem fanOut (hs : MemoryOk s) (addr : Addr) (data : Byte) (f : CtrlFlags) (hands : List Nat) :
    MemoryOk (fanOut addr data f hands s).2 :=
  fanOut_keeps (P := MemoryOk) (fun h _ hu _ => callWait_keeps (P := MemoryOk) (fun _ hv => hv)
    (fun _ hv _ => hv.trackerOnWaitCycle addr data f) (fun _ hv _ => hv.nextWaitReply h)
    (fun cs _ hv => hv.runCallbackCommands h false cs) hu) hands hs

theorem notifyAll (hs : MemoryOk s) (a : BusAction) (reason : Byte) (o : ActOutcome) :
    MemoryOk (notifyAll a reason o s) :=
  completeAll_keeps (P := MemoryOk) (fun h _ hu => callDone_keeps (P := MemoryOk) (fun _ hv => hv)
    (fun _ hv _ => hv.trackerOnComplete a reason o) (fun _ hv _ => hv.nextDoneReply h)
    (fun cs _ hv => hv.runCallbackCommands h _ cs) hu) _ hs

/-! ### The tracker's commands and the breakpoints' -/

theorem releaseHold (hs : MemoryOk s) : MemoryOk (releaseHold s) :=
  hs.of_onlyEngTrk (releaseHold_onlyEngTrk s) (releaseHold_mirror s)

theorem doDisable (hs : MemoryOk s) : MemoryOk (doDisable s) :=
  hs.of_onlyEngTrk (doDisable_onlyEngTrk s) (doDisable_mirror s)

theorem trkEnable (hs : MemoryOk s) (e : Bool) : MemoryOk (trkEnable e s).2 := by
  unfold Machine.trkEnable
  split
  · simp only
    split
    · exact hs
    · split
      · exact hs
      · refine changeSocket (changeSocket ?_ _ _) _ _
        exact hs
  · split
    · exact hs
    · split
      · exact hs
      · exact hs.doDisable

theorem trkRequestGet (hs : MemoryOk s) : MemoryOk (trkRequestGet s).2 := by
  unfold Machine.trkRequestGet
  split <;> exact hs

theorem trkStartSet (hs : MemoryOk s) (r : Z80Registers) : MemoryOk (trkStartSet r s).2 := by
  unfold Machine.trkStartSet
  split
  · exact hs
  · split <;> exact hs

theorem trkStep (hs : MemoryOk s) : MemoryOk (trkStep s).2 := by
  unfold Machine.trkStep
  split
  · exact releaseHold (s := s.withTrk { s.trk with stepInto := true }) hs
  · exact hs

theorem trkRun (hs : MemoryOk s) : MemoryOk (trkRun s).2 := by
  unfold Machine.trkRun
  split
  · exact releaseHold (s := s.withTrk { s.trk with stepInto := false, holdArmed := false }) hs
  · exact hs

theorem trkHalt (hs : MemoryOk s) : MemoryOk (trkHalt s).2 := by
  unfold Machine.trkHalt
  split <;> exact hs

theorem bpWrite (hs : MemoryOk s) (t : BpTable) (i : Nat) (e : Breakpoint) :
    MemoryOk (bpWrite t i e s) := by
  rw [bpWrite_frame]
  exact hs

theorem bpSet (hs : MemoryOk s) (t : BpTable) (i : Nat) (pc : Addr) (msg : String) :
    MemoryOk (bpSet t i pc msg s).2 := by
  unfold Machine.bpSet
  split
  · exact hs.bpWrite _ _ _
  · exact hs

theorem bpClear (hs : MemoryOk s) (t : BpTable) (i : Nat) : MemoryOk (bpClear t i s).2 := by
  unfold Machine.bpClear
  split
  · exact hs.bpWrite _ _ _
  · exact hs

/-! ### The wait half of a tick -/

theorem setWaitState (hs : MemoryOk s) (w : WaitState) : MemoryOk (setWaitState w s) := hs

theorem diagEvents (hs : MemoryOk s) : MemoryOk (diagEvents s) :=
  hs.of_eq (drawDiag_mem s) (by simp [Machine.diagEvents])

/-- The end of a serviced cycle is the end of a bus cycle (41_wait_service.md R179). -/
theorem completeServiced (hs : MemoryOk s) : MemoryOk (completeServiced s) :=
  ((hs.releaseWait _).setWaitState _).now

theorem decodeTimeout (hs : MemoryOk s) : MemoryOk (decodeTimeout s) := by
  have hcount : MemoryOk (s.withEng { s.eng with counters := { s.eng.counters with
      decodeTimeout := s.eng.counters.decodeTimeout + 1 } }) := hs
  exact (hcount.releaseWait none).setWaitState _

theorem dispatchCycle (hs : MemoryOk s) (f : CtrlFlags) : MemoryOk (dispatchCycle f s) := by
  have hfan := fun a d g hands => hs.sampleCtrl.sampleData.fanOut a d g hands
  unfold Machine.dispatchCycle
  simp only
  split
  · exact ((hfan _ _ _ _).setWaitState _).setWaitState _
  · exact ((hfan _ _ _ _).setWaitState _).completeServiced

theorem decodeAndDispatch (hs : MemoryOk s) : MemoryOk (decodeAndDispatch s) := by
  have hloop := hs.settleLoop s.cfg.settleRetries
  unfold Machine.decodeAndDispatch
  split <;> (rename_i heq; rw [heq] at hloop)
  · exact hloop.decodeTimeout
  · exact hloop.dispatchCycle _

theorem waitDetect (hs : MemoryOk s) : MemoryOk (waitDetect s) := by
  have hack : MemoryOk (sampleBusack s).2 := hs.of_eq (sampleBusack_mem s) (by rw [sampleBusack_trk])
  unfold Machine.waitDetect
  simp only
  split
  · exact ((hack.setWaitState _).now.setWaitState _).decodeAndDispatch
  · exact hack

theorem tickWait (hs : MemoryOk s) : MemoryOk (tickWait s) := by
  unfold Machine.tickWait
  split
  · exact hs.waitDetect
  · split
    · exact hs.completeServiced
    · exact hs

/-! ### The action half of a tick -/

theorem setAct (hs : MemoryOk s) (a : BusActionState) : MemoryOk (setAct a s) := hs

theorem clearAction (hs : MemoryOk s) : MemoryOk (clearAction s) := hs.setAct _

theorem checkPending (hs : MemoryOk s) : MemoryOk (checkPending s) := by
  obtain h | ⟨-, -, j, a, r, k, -, -, h⟩ := checkPending_cases s <;> rw [h]
  · exact hs
  · have hslot : MemoryOk (setSock j k s) := hs
    exact hslot.now.setAct _

theorem assertPulse (hs : MemoryOk s) (a : BusAction) (d : Nat) : MemoryOk (assertPulse a d s).2 :=
  ((hs.assertLine a).setAct _).now.setAct _

theorem busRequestHandshake (hs : MemoryOk s) : MemoryOk (busRequestHandshake s).2 := by
  obtain h | h := busRequestHandshake_cases s <;> rw [h]
  · exact (hs.awaitBusack.takeMastership.clearAction.notifyAll _ _ _).releaseMastership
  · exact (hs.awaitBusack.deassertLine _).clearAction.notifyAll _ _ _

theorem startPending (hs : MemoryOk s) : MemoryOk (startPending s).2 := by
  obtain h | ⟨-, -, d, h⟩ | ⟨-, -, h⟩ := startPending_cases s <;> rw [h]
  · exact hs
  · exact hs.assertPulse _ d
  · exact hs.busRequestHandshake

theorem advancePending (hs : MemoryOk s) : MemoryOk (advancePending s) := by
  obtain h | h | ⟨-, -, h⟩ := advancePending_cases s <;> rw [h]
  · exact hs
  · exact hs.now
  · exact ((hs.now.deassertLine _).notifyAll _ _ _).clearAction

theorem actionTimeoutCheck (hs : MemoryOk s) : MemoryOk (actionTimeoutCheck s) := by
  obtain h | h | ⟨-, h⟩ | ⟨-, h⟩ := actionTimeoutCheck_cases s <;> rw [h]
  · exact hs
  · exact hs.now
  · exact (hs.now.deassertLine _).clearAction.notifyAll _ _ _
  · exact hs.now.clearAction.notifyAll _ _ _

theorem tickActions (hs : MemoryOk s) : MemoryOk (tickActions s) := by
  have h := hs.advancePending.actionTimeoutCheck
  unfold Machine.tickActions
  simp only
  split
  · exact h.checkPending.startPending
  · exact h

/-! ### Commands and steps -/

theorem execOnWaitCycle (hs : MemoryOk s) (h : execOnWaitCycle s = .next t) : MemoryOk t := by
  unfold Machine.execOnWaitCycle at h
  split at h <;> cases h
  · exact hs
  · exact hs.trackerOnWaitCycle _ _ _

theorem execOnBusActionComplete (hs : MemoryOk s) (h : execOnBusActionComplete s = .next t) :
    MemoryOk t := by
  unfold Machine.execOnBusActionComplete at h
  split at h <;> cases h
  · exact hs
  · exact hs.trackerOnComplete _ _ _

/-- Every instruction keeps the form: a command word by its own part, a Z80 instruction by its stores. -/
theorem exec (i : Instr) (hs : MemoryOk s) (h : exec i s = .next t) : MemoryOk t := by
  by_cases hz : i.isZ80 = true
  · exact hs.execZ80 hz h
  cases i with
  | addSocket => cases h; exact hs.addSocket _ _ _
  | enableSocket h' e => cases h; exact hs.changeSocket _ _
  | setWaitOn h' m io => cases h; exact hs.changeSocket _ _
  | setHold h' d => cases h; exact hs.changeSocket _ _
  | requestAction h' r a => cases h; exact hs.requestAction _ _ _
  | requestBus h' r => cases h; exact hs.requestBus _ _
  | serviceTick => cases h; exact hs.diagEvents.tickWait.tickActions
  | checkPending => cases h; exact hs.checkPending
  | startPending => cases h; exact hs.startPending
  | advancePending => cases h; exact hs.advancePending
  | requestAndTake => cases h; exact hs.requestAndTake
  | release => cases h; exact hs.releaseBus
  | blockRead auto io a => cases h; exact hs.blockRead _ _ _ _
  | blockWrite auto io a => cases h; exact hs.blockWrite _ _ _ _
  | trkEnable e => cases h; exact hs.trkEnable e
  | trkRequestGet => cases h; exact hs.trkRequestGet
  | trkStartSet => cases h; exact hs.trkStartSet _
  | trkStep => cases h; exact hs.trkStep
  | trkRun => cases h; exact hs.trkRun
  | trkHalt => cases h; exact hs.trkHalt
  | bpSet t' i pc => cases h; exact hs.bpSet _ _ _ _
  | bpClear t' i => cases h; exact hs.bpClear _ _
  | bpGlobalEnable e => cases h; exact hs
  | checkForBreak f a => cases h; exact hs
  | isPrefix b => cases h; exact hs
  | onWaitCycle => exact hs.execOnWaitCycle h
  | onBusActionComplete => exact hs.execOnBusActionComplete h
  | _ => exact absurd rfl hz

end MemoryOk

/-- Settles O53: every part of a step keeps the canonical form. -/
theorem stepKeepsMemoryCanonical : Obligations.StepKeepsMemoryCanonical := fun _ _ hs h =>
  step_keeps (P := MemoryOk) (fun _ => MemoryOk.nextTurn) (fun _ _ hu => hu)
    (fun i _ _ => MemoryOk.exec i) (fun _ => MemoryOk.z80Cycle) (fun m _ hu => hu.outsideMove m) hs h

end Sys2Proof.Machine
end

section
/-! SUPPORT. The operands of a command word (30_encoding.md R105): reading a field back from what the encoder
wrote, and that the bits a row reserves are exactly those that the encoder leaves zero (R106). -/

namespace Sys2Proof

/-! ### Halves of `imm` -/

theorem and_pair_eq_zero_iff (x : BitVec 16) (a b : Byte) :
    x &&& pair a b = 0 ↔ hi x &&& a = 0 ∧ lo x &&& b = 0 := by
  have h : x &&& pair a b = pair (hi x &&& a) (lo x &&& b) := by
    conv_lhs => rw [← pair_hi_lo x]
    exact BitVec.and_append
  rw [h]
  constructor
  · intro h0
    exact ⟨by rw [← hi_pair (hi x &&& a) (lo x &&& b), h0]; rfl,
      by rw [← lo_pair (hi x &&& a) (lo x &&& b), h0]; rfl⟩
  · rintro ⟨ha, hb⟩
    rw [ha, hb]
    rfl

/-- Only the low byte of `imm` is used. -/
theorem eq_pair_zero_of_hi {x : BitVec 16} (h : hi x = 0) : pair 0 (lo x) = x := by
  rw [← h, pair_hi_lo]

/-- Only the high byte of `imm` is used. -/
theorem eq_pair_zero_of_lo {x : BitVec 16} (h : lo x = 0) : pair (hi x) 0 = x := by
  rw [← h, pair_hi_lo]

theorem getLsbD_lo (x : BitVec 16) {k : Nat} (hk : k < 8) : (lo x).getLsbD k = x.getLsbD k := by
  rw [lo_getLsbD, decide_eq_true hk, Bool.true_and]

/-! ### One bit in `imm` -/

@[simp] theorem bit16_getLsbD_zero (b : Bool) : (bit16 b).getLsbD 0 = b := by cases b <;> rfl

@[simp] theorem bit16_reserved (b : Bool) : bit16 b &&& 0xFFFE#16 = 0 := by cases b <;> rfl

theorem bit16_of_reserved {x : BitVec 16} (h : x &&& 0xFFFE#16 = 0) : bit16 (x.getLsbD 0) = x := by
  obtain ⟨hhi, hlo⟩ := (and_pair_eq_zero_iff x 0xFF 0xFE).1 h
  have byte : ∀ b : Byte, b &&& 0xFE#8 = 0 → bit16 (b.getLsbD 0) = pair 0 b := by decide
  rw [← getLsbD_lo x (by decide), byte _ hlo]
  exact eq_pair_zero_of_hi (BitVec.and_allOnes.symm.trans hhi)

/-! ### Two bits in `imm` -/

/-- `m` and `i` of SET_WAIT_ON, as the encoder writes them. -/
theorem waitBits_read (m i : Bool) :
    (bit16 m ||| if i then 2#16 else 0#16).getLsbD 0 = m ∧
    (bit16 m ||| if i then 2#16 else 0#16).getLsbD 1 = i := by
  revert m i; decide

theorem waitBits_reserved (m i : Bool) :
    (bit16 m ||| if i then 2#16 else 0#16) &&& 0xFFFC#16 = 0 := by
  revert m i; decide

theorem waitBits_of_reserved {x : BitVec 16} (h : x &&& 0xFFFC#16 = 0) :
    (bit16 (x.getLsbD 0) ||| if x.getLsbD 1 then 2#16 else 0#16) = x := by
  obtain ⟨hhi, hlo⟩ := (and_pair_eq_zero_iff x 0xFF 0xFC).1 h
  have byte : ∀ b : Byte, b &&& 0xFC#8 = 0 →
      (bit16 (b.getLsbD 0) ||| if b.getLsbD 1 then 2#16 else 0#16) = pair 0 b := by decide
  rw [← getLsbD_lo x (k := 0) (by decide), ← getLsbD_lo x (k := 1) (by decide), byte _ hlo]
  exact eq_pair_zero_of_hi (BitVec.and_allOnes.symm.trans hhi)

/-! ### A reason, with an action or alone; a byte alone -/

@[simp] theorem pair_action_reserved (r : Byte) (a : BitVec 2) :
    pair r (a.setWidth 8) &&& 0x00FC#16 = 0 := by
  refine (and_pair_eq_zero_iff _ 0 0xFC).2 ⟨BitVec.and_zero, ?_⟩
  rw [lo_pair]
  revert a; decide

theorem extractLsb'_two_lo (x : BitVec 16) : x.extractLsb' 0 2 = (lo x).extractLsb' 0 2 := by
  apply BitVec.eq_of_getLsbD_eq
  intro k hk
  rw [BitVec.getLsbD_extractLsb', BitVec.getLsbD_extractLsb', Nat.zero_add, getLsbD_lo x (by omega)]

@[simp] theorem pair_action_read (r : Byte) (a : BitVec 2) :
    (pair r (a.setWidth 8)).extractLsb' 0 2 = a := by
  rw [extractLsb'_two_lo, lo_pair]
  revert a; decide

theorem pair_action_of_reserved {x : BitVec 16} (h : x &&& 0x00FC#16 = 0) :
    pair (hi x) ((x.extractLsb' 0 2).setWidth 8) = x := by
  obtain ⟨-, hlo⟩ := (and_pair_eq_zero_iff x 0 0xFC).1 h
  have byte : ∀ b : Byte, b &&& 0xFC#8 = 0 → (b.extractLsb' 0 2).setWidth 8 = b := by decide
  rw [extractLsb'_two_lo, byte _ hlo, pair_hi_lo]

theorem low_reserved_iff (x : BitVec 16) : x &&& 0x00FF#16 = 0#16 ↔ lo x = 0 := by
  rw [← BitVec.and_allOnes (x := lo x)]
  exact (and_pair_eq_zero_iff x 0 0xFF).trans (and_iff_right BitVec.and_zero)

theorem high_reserved_iff (x : BitVec 16) : x &&& 0xFF00#16 = 0#16 ↔ hi x = 0 := by
  rw [← BitVec.and_allOnes (x := hi x)]
  exact (and_pair_eq_zero_iff x 0xFF 0).trans (and_iff_left BitVec.and_zero)

/-! ### The modes of a block transfer in `x` -/

theorem blockMode_read (auto io : Bool) :
    (blockMode auto io).getLsbD 1 = auto ∧ (blockMode auto io).getLsbD 0 = io := by
  revert auto io; decide

@[simp] theorem blockMode_reserved (auto io : Bool) : blockMode auto io &&& 0xFC#8 = 0 := by
  revert auto io; decide

theorem blockMode_of_reserved : ∀ {x : Byte}, x &&& 0xFC#8 = 0 →
    blockMode (x.getLsbD 1) (x.getLsbD 0) = x := by decide

/-! ### A breakpoint's table and index in `x` -/

theorem bpSelector_index (t : BpTable) {idx : Nat} (h : idx < 128) :
    (bpSelector t idx &&& 0x7F#8).toNat = idx := by
  revert idx
  cases t <;> decide

theorem bpSelector_table (t : BpTable) (idx : Nat) :
    BpTable.ofBit ((bpSelector t idx).getLsbD 7) = t := by
  cases t <;> simp [bpSelector, BpTable.bit, BpTable.ofBit]

theorem bpSelector_read : ∀ x : Byte,
    bpSelector (.ofBit (x.getLsbD 7)) (x &&& 0x7F#8).toNat = x ∧ (x &&& 0x7F#8).toNat < 128 := by decide

end Sys2Proof
end

section
/-! SUPPORT. The decoder of 30_encoding.md R104 to R106 and 46_injection.md R361 against its encoder, in
both directions. -/

namespace Sys2Proof

/-! ### The encoded form decodes -/

theorem reservedZero_eq_ok_iff {op : Byte} {ok : Bool} {i j : Instr} :
    reservedZero op ok i = .ok j ↔ ok = true ∧ i = j := by
  cases ok <;> simp [reservedZero]

/-- The word of a well-formed command decodes to it. -/
theorem decodeCommand_of_encode {i : Instr} {w : Word32} (hwf : i.wf = true) (h : encode i = .word w) :
    decodeCommand w = .ok i := by
  cases i with
  | enableSocket | setHold | trkEnable | bpGlobalEnable =>
    cases h; simp [decodeCommand, reservedZero, -BitVec.getLsbD_eq_getElem]
  | setWaitOn x m io =>
    cases h
    obtain ⟨hm, hio⟩ := waitBits_read m io
    have hres := waitBits_reserved m io
    generalize (bit16 m ||| if io then 2#16 else 0#16) = imm at *
    subst hm hio
    simp [decodeCommand, reservedZero, hres]
  | requestAction | requestBus | isPrefix =>
    cases h; simp [decodeCommand, reservedZero, low_reserved_iff]
  | blockRead auto io addr | blockWrite auto io addr =>
    cases h
    obtain ⟨hauto, hio⟩ := blockMode_read auto io
    simp [decodeCommand, reservedZero, hauto, hio, -BitVec.getLsbD_eq_getElem]
  | bpSet t idx pc | bpClear t idx =>
    cases h
    simp [decodeCommand, reservedZero, bpSelector_table, bpSelector_index t (of_decide_eq_true hwf),
      -BitVec.getLsbD_eq_getElem]
  | checkForBreak flags addr =>
    cases h
    simp [decodeCommand, reservedZero, of_decide_eq_true hwf]
  | _ => cases h <;> rfl

@[simp] theorem operand16_lo_hi (mk : BitVec 16 → Instr) (nn : BitVec 16) (rest : List Byte) :
    operand16 mk (lo nn :: hi nn :: rest) = .ok (mk nn, rest) := by
  simp [operand16]

/-- The bytes of a Z80 instruction decode to it, and the decoder leaves the rest. -/
theorem decodeZ80_of_encode {i : Instr} {bs : List Byte} (h : encode i = .bytes bs) (rest : List Byte) :
    decodeZ80 (bs ++ rest) = .ok (i, rest) := by
  cases i with
  | ldMemA nn | ldMemHl nn | ldMemDe nn | ldMemBc nn | jpNn nn
  | ldBcNn nn | ldDeNn nn | ldHlNn nn | ldSpNn nn | ldIxNn nn | ldIyNn nn =>
    cases h; exact operand16_lo_hi _ nn rest
  | _ => cases h <;> rfl

theorem decode_bytes {bs : List Byte} {i : Instr} (h : decodeZ80 bs = .ok (i, [])) :
    decode (.bytes bs) = .ok i := by
  simp [decode, h]

/-- Settles O1: a command is its word, a Z80 instruction its bytes. -/
theorem decodeEncodeRoundTrip : Obligations.DecodeEncodeRoundTrip := by
  intro i hwf
  cases h : encode i with
  | word w => exact decodeCommand_of_encode hwf h
  | bytes bs =>
    have hz := decodeZ80_of_encode h []
    rw [List.append_nil] at hz
    exact decode_bytes hz

/-! ### The decoded word is the encoded one -/

/-- A word with these fields is the encoded word (30_encoding.md R104). -/
theorem word_of_fields {w : Word32} {op : Byte} {x : Byte} {imm : BitVec 16}
    (ho : (wordOp w).toNat = op.toNat) (hx : x = wordX w) (hi : imm = wordImm w) :
    Encoded.word (mkWord op x imm) = .word w := by
  rw [← mkWord_fields w, BitVec.eq_of_toNat_eq ho, hx, hi]

/-- A word that decodes is the encoded form of a well-formed command: a row's operands take all the bits
that the row does not reserve. Case `h_k` is the `k`-th row of `decodeCommand`. -/
theorem encode_of_decodeCommand {w : Word32} {i : Instr} (h : decodeCommand w = .ok i) :
    i.wf = true ∧ encode i = .word w := by
  unfold decodeCommand at h
  dsimp only at h
  split at h
  case h_28 => cases h -- no row has this code
  case h_21 ho => -- BP_SET
    obtain ⟨hsel, hidx⟩ := bpSelector_read (wordX w)
    obtain rfl := Except.ok.inj h
    exact ⟨decide_eq_true hidx, word_of_fields ho hsel rfl⟩
  all_goals simp only [reservedZero_eq_ok_iff, Bool.and_eq_true, beq_iff_eq] at h
  case h_2 ho | h_4 ho => -- ENABLE_SOCKET, SET_HOLD
    obtain ⟨hi, rfl⟩ := h
    exact ⟨rfl, word_of_fields ho rfl (bit16_of_reserved hi)⟩
  case h_3 ho => -- SET_WAIT_ON
    obtain ⟨hi, rfl⟩ := h
    exact ⟨rfl, word_of_fields ho rfl (waitBits_of_reserved hi)⟩
  case h_5 ho => -- REQUEST_ACTION
    obtain ⟨hi, rfl⟩ := h
    exact ⟨rfl, word_of_fields ho rfl (pair_action_of_reserved hi)⟩
  case h_6 ho => -- REQUEST_BUS
    obtain ⟨hi, rfl⟩ := h
    exact ⟨rfl, word_of_fields ho rfl (eq_pair_zero_of_lo ((low_reserved_iff _).1 hi))⟩
  case h_13 ho | h_14 ho => -- BLOCK_READ, BLOCK_WRITE
    obtain ⟨hx, rfl⟩ := h
    exact ⟨rfl, word_of_fields ho (blockMode_of_reserved hx) rfl⟩
  case h_15 ho | h_23 ho => -- TRK_ENABLE, BP_GLOBAL_ENABLE
    obtain ⟨⟨hx, hi⟩, rfl⟩ := h
    exact ⟨rfl, word_of_fields ho hx.symm (bit16_of_reserved hi)⟩
  case h_22 ho => -- BP_CLEAR
    obtain ⟨hsel, hidx⟩ := bpSelector_read (wordX w)
    obtain ⟨hi, rfl⟩ := h
    exact ⟨decide_eq_true hidx, word_of_fields ho hsel hi.symm⟩
  case h_24 ho => -- CHECK_FOR_BREAK
    obtain ⟨hx, rfl⟩ := h
    exact ⟨decide_eq_true hx, word_of_fields ho rfl rfl⟩
  case h_25 ho => -- IS_PREFIX
    obtain ⟨⟨hx, hi⟩, rfl⟩ := h
    exact ⟨rfl, word_of_fields ho hx.symm (eq_pair_zero_of_hi hi)⟩
  all_goals -- the commands without an operand
    obtain ⟨⟨hx, hi⟩, rfl⟩ := h
    exact ⟨rfl, word_of_fields ‹_› hx.symm hi.symm⟩

end Sys2Proof
end

section
/-! SUPPORT. The mask and the match of every command row (30_encoding.md R105, R106) against the decoder, and
the sample words. -/

namespace Sys2Proof

open Sys2Proof.Machine

/-! ### Masks, field by field (30_encoding.md R104) -/

theorem mkWord_and (op op' x x' : Byte) (imm imm' : BitVec 16) :
    mkWord op x imm &&& mkWord op' x' imm' = mkWord (op &&& op') (x &&& x') (imm &&& imm') := by
  unfold mkWord
  rw [BitVec.and_append, BitVec.and_append]

/-- A mask tests each field by its own part. -/
theorem fields_of_and_eq {w m v : Word32} (h : w &&& m = v) :
    wordOp w &&& wordOp m = wordOp v ∧ wordX w &&& wordX m = wordX v ∧
      wordImm w &&& wordImm m = wordImm v := by
  have hw : mkWord (wordOp w &&& wordOp m) (wordX w &&& wordX m) (wordImm w &&& wordImm m) = v := by
    rw [← mkWord_and, mkWord_fields, mkWord_fields, h]
  rw [← hw, wordOp_mkWord, wordX_mkWord, wordImm_mkWord]
  exact ⟨rfl, rfl, rfl⟩

/-- A word whose row reserves `mx` in `x` and `mi` in `imm`, all zero, matches the row. -/
theorem exists_row_of_reserved {op x mx : Byte} {imm mi : BitVec 16} (hx : x &&& mx = 0) (hi : imm &&& mi = 0)
    (hrow : (mkWord 0xFF mx mi, mkWord op 0 0) ∈ commandRows) :
    ∃ row ∈ commandRows, mkWord op x imm &&& row.1 = row.2 := by
  have ho : op &&& 0xFF = op := BitVec.and_allOnes
  exact ⟨_, hrow, by rw [mkWord_and, ho, hx, hi]⟩

/-! ### The rows -/

/-- The encoder leaves the reserved bits of its row zero. -/
theorem exists_row_of_encode {i : Instr} {w : Word32} (hwf : i.wf = true) (h : encode i = .word w) :
    ∃ row ∈ commandRows, w &&& row.1 = row.2 := by
  cases i with
  | enableSocket _ e | setHold _ e =>
    cases h; exact exists_row_of_reserved BitVec.and_zero (bit16_reserved e) (by decide)
  | trkEnable e | bpGlobalEnable e =>
    cases h; exact exists_row_of_reserved (mx := 0xFF) rfl (bit16_reserved e) (by decide)
  | setWaitOn _ m io =>
    cases h; exact exists_row_of_reserved BitVec.and_zero (waitBits_reserved m io) (by decide)
  | requestAction _ r a =>
    cases h; exact exists_row_of_reserved BitVec.and_zero (pair_action_reserved r a) (by decide)
  | requestBus _ r =>
    cases h; exact exists_row_of_reserved BitVec.and_zero ((low_reserved_iff _).2 (lo_pair r 0)) (by decide)
  | blockRead auto io _ | blockWrite auto io _ =>
    cases h; exact exists_row_of_reserved (blockMode_reserved auto io) BitVec.and_zero (by decide)
  | bpSet => cases h; exact exists_row_of_reserved BitVec.and_zero BitVec.and_zero (by decide)
  | bpClear => cases h; exact exists_row_of_reserved (mi := 0xFFFF) BitVec.and_zero rfl (by decide)
  | checkForBreak =>
    cases h; exact exists_row_of_reserved (of_decide_eq_true hwf) BitVec.and_zero (by decide)
  | isPrefix b =>
    cases h
    exact exists_row_of_reserved (mx := 0xFF) rfl ((high_reserved_iff _).2 (hi_pair 0 b)) (by decide)
  | _ => cases h <;> decide

/-- In every row, the bits of `x` and `imm` that the mask tests besides the code are those that the decoder
requires to be zero. -/
theorem decodes_of_row {w : Word32} {row : Word32 × Word32} (hrow : row ∈ commandRows)
    (h : w &&& row.1 = row.2) : ∃ i, decodeCommand w = .ok i := by
  obtain ⟨ho, hx, hi⟩ := fields_of_and_eq h
  have byte : ∀ b : Byte, b &&& 0xFF#8 = b := fun _ => BitVec.and_allOnes
  have half : ∀ v : BitVec 16, v &&& 0xFFFF#16 = v := fun _ => BitVec.and_allOnes
  unfold decodeCommand
  dsimp only
  clear h
  generalize wordOp w = op, wordX w = x, wordImm w = imm at *
  fin_cases hrow
  all_goals
    simp only [wordOp, wordX, wordImm, BitVec.reduceExtractLsb', byte, half, high_reserved_iff]
      at ho hx hi
    subst ho
    simp [reservedZero, hx, hi]

/-- Settles O2: a word decodes exactly when a row matches it, and then it is what the encoder writes. -/
theorem commandWordsAreTheTable : Obligations.CommandWordsAreTheTable := by
  refine ⟨fun w => ⟨?_, ?_⟩, fun w i => encode_of_decodeCommand⟩
  · rintro ⟨i, h⟩
    obtain ⟨hwf, henc⟩ := encode_of_decodeCommand h
    exact exists_row_of_encode hwf henc
  · rintro ⟨row, hrow, h⟩
    exact decodes_of_row hrow h

/-- Settles O4: both decoders run on the words as written. -/
theorem sampleWordsDecode : Obligations.SampleWordsDecode := by
  unfold Obligations.SampleWordsDecode
  and_intros <;> decide

end Sys2Proof
end

section
/-! SUPPORT. The socket table commands (40_socket_table.md R140 to R145): what each answers and writes, and
what it refuses. -/

namespace Sys2Proof.Machine

/-! ### The commands' words -/

theorem exec_addSocket (s : State) : exec .addSocket s =
    finish (addSocket s.port.payload.info (.script s.port.payload.info.waitReplies)
      (.script s.port.payload.info.doneReplies) s) := rfl

theorem exec_enableSocket (h : BitVec 8) (e : Bool) (s : State) : exec (.enableSocket h e) s =
    finish (changeSocket h.toNat (fun k => { k with enabled := e }) s) := rfl

theorem exec_setWaitOn (h : BitVec 8) (m i : Bool) (s : State) : exec (.setWaitOn h m i) s =
    finish (changeSocket h.toNat (fun k => { k with waitOnMemory := m, waitOnIo := i }) s) := rfl

theorem exec_setHold (h : BitVec 8) (d : Bool) (s : State) : exec (.setHold h d) s =
    finish (changeSocket h.toNat (fun k => { k with hold := d }) s) := rfl

theorem exec_requestAction (h : BitVec 8) (reason : Byte) (act : BitVec 2) (s : State) :
    exec (.requestAction h reason act) s = finish (requestAction h.toNat act reason s) := rfl

theorem exec_requestBus (h : BitVec 8) (reason : Byte) (s : State) :
    exec (.requestBus h reason) s = finish (requestBus h.toNat reason s) := rfl

/-! ### A registered handle -/

/-- Every registered socket stands in a slot of the table (10_state.md R20). -/
theorem TableOk.lt_length {s : State} (hs : TableOk s) {h : Nat} (hh : h < s.eng.numSockets) :
    h < s.eng.sock.length := by
  obtain ⟨hlen, -, hmax, -⟩ := hs
  omega

/-- A write of a slot of the table is the only change of the engine. -/
theorem setSock_onlySocket {s : State} {h : Nat} (hl : h < s.eng.sock.length) (k : Socket) :
    OnlySocket h k s (setSock h k s) :=
  ⟨rfl, setSock_length s h k, sockAt_setSock_self hl k, fun _ hj => sockAt_setSock_other hj k⟩

/-! ### ADD_SOCKET -/

/-- The slot that ADD_SOCKET registers (40_socket_table.md R140). -/
def newSocket (info : SocketInfo) (onWait : WaitCallback) (onDone : DoneCallback) : Socket :=
  { registered := true, enabled := info.enabled, waitOnMemory := info.waitOnMemory,
    waitOnIo := info.waitOnIo, hold := info.hold, busMasterRequest := none, actionRequest := none,
    durResetUs := info.durResetUs, durNmiUs := info.durNmiUs, durIrqUs := info.durIrqUs,
    onWaitCycle := onWait, onDone := onDone }

theorem addSocket_full {s : State} (hf : s.eng.numSockets = s.cfg.maxSockets) (info : SocketInfo)
    (w : WaitCallback) (d : DoneCallback) : addSocket info w d s = (.error .resourceExhausted, s) := by
  simp [addSocket, hf]

theorem addSocket_free {s : State} (hf : s.eng.numSockets ≠ s.cfg.maxSockets) (info : SocketInfo)
    (w : WaitCallback) (d : DoneCallback) :
    addSocket info w d s = (.ok (.handle s.eng.numSockets),
      recompute ((setSock s.eng.numSockets (newSocket info w d) s).withEng
        { (setSock s.eng.numSockets (newSocket info w d) s).eng with
          numSockets := s.eng.numSockets + 1 })) := by
  simp [addSocket, hf, newSocket]

/-- With a free slot the first one is written, counted, and its number is the handle. -/
theorem finish_addSocket {s : State} (hs : TableOk s) (hf : s.eng.numSockets < s.cfg.maxSockets)
    (info : SocketInfo) (w : WaitCallback) (d : DoneCallback) :
    ∃ t, finish (addSocket info w d s) = .next t ∧ OnlyEng (.ok (.handle s.eng.numSockets)) s t ∧
      t.eng.numSockets = s.eng.numSockets + 1 ∧
      SocketBecomes s.eng.numSockets (newSocket info w d) s t := by
  obtain ⟨hlen, -⟩ := hs
  rw [addSocket_free hf.ne]
  refine ⟨_, rfl, rfl, rfl, rfl, setSock_length s _ _, ?_, fun j hj => ?_, recompute_aggregatesOk _⟩
  · exact sockAt_setSock_self (hlen ▸ hf) _
  · exact sockAt_setSock_other hj _

/-- Settles O7: the first free slot becomes the payload's, or there is none. -/
theorem addSocketEffect : Obligations.AddSocketEffect := by
  intro s hs
  rw [exec_addSocket]
  refine ⟨fun hfree => finish_addSocket hs hfree _ _ _, fun hfull => ?_⟩
  rw [addSocket_full hfull, finish_eq]

/-! ### ENABLE_SOCKET, SET_WAIT_ON, SET_HOLD -/

/-- A command that writes the flags of a registered socket (40_socket_table.md R141 to R143, R146). -/
theorem finish_changeSocket {s : State} (hs : TableOk s) {h : Nat} (hh : h < s.eng.numSockets)
    (f : Socket → Socket) :
    ∃ t, finish (changeSocket h f s) = .next t ∧ OnlyEng okNone s t ∧
      t.eng.numSockets = s.eng.numSockets ∧ SocketBecomes h (f (sockAt s h)) s t := by
  have hbecomes := changeSocket_becomes hh (hs.lt_length hh) f
  rw [changeSocket_ok hh] at hbecomes ⊢
  exact ⟨_, rfl, rfl, rfl, hbecomes⟩

/-- Settles O8: the three commands are one write of flags each. -/
theorem socketFlagCommandsEffect : Obligations.SocketFlagCommandsEffect := by
  intro s h hs
  simp only [exec_enableSocket, exec_setWaitOn, exec_setHold]
  refine ⟨fun hh => ⟨fun e => ?_, fun m i => ?_, fun d => ?_⟩, fun hh e m i d => ?_⟩
  · exact finish_changeSocket hs hh _
  · exact finish_changeSocket hs hh _
  · exact finish_changeSocket hs hh _
  · simp only [changeSocket_bad (Nat.not_lt.mpr hh), finish_eq, and_self]

/-! ### REQUEST_ACTION, REQUEST_BUS -/

/-- The three actions that a socket may ask for (40_socket_table.md R144). -/
theorem pulseOfCode_eq_some {act : BitVec 2} {p : Pulse}
    (h : act = 1 ∧ p = .reset ∨ act = 2 ∧ p = .nmi ∨ act = 3 ∧ p = .irq) :
    pulseOfCode act = some p := by
  obtain ⟨rfl, rfl⟩ | ⟨rfl, rfl⟩ | ⟨rfl, rfl⟩ := h <;> rfl

section
variable {s : State} {h : Nat} (reason : Byte)

theorem requestAction_ok (hh : h < s.eng.numSockets) {act : BitVec 2} {p : Pulse}
    (hp : pulseOfCode act = some p) (hfree : (sockAt s h).actionRequest = none) :
    requestAction h act reason s =
      (okNone, setSock h { sockAt s h with actionRequest := some (p, reason) } s) := by
  simp [requestAction, handleOk, hh, hp, hfree]

theorem requestAction_busy (hh : h < s.eng.numSockets) {act : BitVec 2} {p : Pulse}
    (hp : pulseOfCode act = some p) (hstands : (sockAt s h).actionRequest ≠ none) :
    requestAction h act reason s = (busy, s) := by
  simp [requestAction, handleOk, hh, hp, Option.isSome_iff_ne_none, hstands]

/-- Action 0 is refused of every handle. -/
theorem requestAction_noAction (s : State) (h : Nat) : requestAction h 0 reason s = (invalid, s) := by
  unfold requestAction
  split <;> rfl

theorem requestAction_unregistered (hh : s.eng.numSockets ≤ h) (act : BitVec 2) :
    requestAction h act reason s = (invalid, s) := by
  simp [requestAction, handleOk, Nat.not_lt.mpr hh]

theorem requestBus_ok (hh : h < s.eng.numSockets) (hfree : (sockAt s h).busMasterRequest = none) :
    requestBus h reason s =
      (okNone, setSock h { sockAt s h with busMasterRequest := some reason } s) := by
  simp [requestBus, handleOk, hh, hfree]

theorem requestBus_busy (hh : h < s.eng.numSockets) (hstands : (sockAt s h).busMasterRequest ≠ none) :
    requestBus h reason s = (busy, s) := by
  simp [requestBus, handleOk, hh, Option.isSome_iff_ne_none, hstands]

theorem requestBus_unregistered (hh : s.eng.numSockets ≤ h) : requestBus h reason s = (invalid, s) := by
  simp [requestBus, handleOk, Nat.not_lt.mpr hh]

end

/-- A command that records a request in a slot of the table. -/
theorem finish_setSock {s : State} (hs : TableOk s) {h : Nat} (hh : h < s.eng.numSockets) (k : Socket) :
    ∃ t, finish (okNone, setSock h k s) = .next t ∧ OnlyEng okNone s t ∧ OnlySocket h k s t :=
  ⟨_, rfl, rfl, setSock_onlySocket (hs.lt_length hh) k⟩

/-- Settles O9: a free request slot is written; a standing request, action 0 and an unregistered handle write
nothing. -/
theorem requestsAreRecorded : Obligations.RequestsAreRecorded := by
  intro s h reason hs
  simp only [exec_requestAction, exec_requestBus]
  refine ⟨fun hh => ⟨fun act p hact => ⟨fun hfree => ?_, fun hstands => ?_⟩, fun hfree => ?_,
    fun hstands => ?_⟩, ?_, fun hh => ⟨fun act => ?_, ?_⟩⟩
  · rw [requestAction_ok reason hh (pulseOfCode_eq_some hact) hfree]
    exact finish_setSock hs hh _
  · rw [requestAction_busy reason hh (pulseOfCode_eq_some hact) hstands, finish_eq]
  · rw [requestBus_ok reason hh hfree]
    exact finish_setSock hs hh _
  · rw [requestBus_busy reason hh hstands, finish_eq]
  · rw [requestAction_noAction, finish_eq]
  · rw [requestAction_unregistered reason hh, finish_eq]
  · rw [requestBus_unregistered reason hh, finish_eq]

end Sys2Proof.Machine
end

section
/-! SUPPORT. The commands of a callback (40_socket_table.md R147): which words run and as what, and what each
of them leaves. -/

namespace Sys2Proof.Machine

/-! ### Which words run -/

section
variable {m : Bool} {c : CbCommand} {i : Instr}

/-- A word that is no command is refused. -/
theorem callbackCommand_illegal (s : State) (hd : ∀ i, decodeCommand c.word ≠ .ok i) :
    callbackCommand m c s = (invalid, s) := by
  unfold callbackCommand
  split
  · rfl
  · exact absurd ‹_› (hd _)

/-- A command that R147 does not list is refused. -/
theorem callbackCommand_refused (s : State) (hd : decodeCommand c.word = .ok i)
    (hm : callbackMay m i = false) :
    callbackCommand m c s = (invalid, s) := by
  unfold callbackCommand
  rw [hd]
  cases i with
  | blockRead | blockWrite =>
    obtain rfl : m = false := hm
    rfl
  | enableSocket | setWaitOn | setHold | requestAction | requestBus => cases hm
  | bpSet | bpClear | bpGlobalEnable | checkForBreak => cases hm
  | _ => rfl

/-- A listed command has the effect that it has at the port, where the port carries its payload. -/
theorem exec_of_callbackMay {s : State} (hd : decodeCommand c.word = .ok i) (hm : callbackMay m i = true)
    (hlen : s.port.payload.len = c.len) (hbuf : s.port.payload.buf = c.buf)
    (hmsg : s.port.payload.msg = c.msg) : exec i s = finish (callbackCommand m c s) := by
  unfold callbackCommand
  rw [hd]
  cases i with
  | blockRead auto io addr =>
    obtain rfl : m = true := hm
    simp only [if_true, ← hlen]
    rfl
  | blockWrite auto io addr =>
    obtain rfl : m = true := hm
    simp only [if_true, ← hbuf]
    rfl
  | bpSet t idx pc => simp only [← hmsg]; rfl
  | enableSocket | setWaitOn | setHold | requestAction | requestBus => rfl
  | bpClear | bpGlobalEnable | checkForBreak => rfl
  | _ => cases hm

end

/-! ### What they leave -/

/-- The tracker and the world are as before, and of the engine all but the slots and their aggregates. -/
structure SlotsOrTables (s t : State) : Prop where
  engine : t.eng.sansSlots = s.eng.sansSlots
  trk : t.trk = s.trk
  world : t.world = s.world

theorem SlotsOrTables.refl (s : State) : SlotsOrTables s s := ⟨rfl, rfl, rfl⟩

theorem SlotsOrTables.mastered {s t : State} (h : SlotsOrTables s t) :
    t.eng.mastered = s.eng.mastered :=
  (congrArg Engine.mastered h.engine :)

theorem changeSocket_slotsOrTables (h : Nat) (f : Socket → Socket) (s : State) :
    SlotsOrTables s (changeSocket h f s).2 :=
  ⟨(changeSocket_callbackFrame h f s).engine, changeSocket_trk h f s, by
    rw [changeSocket_frame, State.withEng_world]⟩

theorem requestAction_slotsOrTables (h : Nat) (act : BitVec 2) (r : Byte) (s : State) :
    SlotsOrTables s (requestAction h act r s).2 := by
  unfold requestAction
  split
  · split
    · exact .refl s
    · split
      · exact .refl s
      · exact ⟨rfl, rfl, rfl⟩
  · exact .refl s

theorem requestBus_slotsOrTables (h : Nat) (r : Byte) (s : State) :
    SlotsOrTables s (requestBus h r s).2 := by
  unfold requestBus
  split
  · split
    · exact .refl s
    · exact ⟨rfl, rfl, rfl⟩
  · exact .refl s

/-- What a block transfer leaves, which moves bytes of memory or I/O and may take the bus and give it back. -/
structure TransferFrame (s t : State) : Prop where
  act : t.eng.act = s.eng.act
  numSockets : t.eng.numSockets = s.eng.numSockets
  trk : t.trk = s.trk
  calls : t.world.calls = s.world.calls

theorem TransferFrame.refl (s : State) : TransferFrame s s := ⟨rfl, rfl, rfl, rfl⟩

theorem TransferFrame.trans {s t u : State} (h : TransferFrame s t) (g : TransferFrame t u) :
    TransferFrame s u :=
  ⟨g.act.trans h.act, g.numSockets.trans h.numSockets, g.trk.trans h.trk, g.calls.trans h.calls⟩

theorem SlotsOrTables.transferFrame {s t : State} (h : SlotsOrTables s t) : TransferFrame s t :=
  ⟨(congrArg Engine.act h.engine :), (congrArg Engine.numSockets h.engine :), h.trk, by rw [h.world]⟩

theorem OnlyTime.transferFrame {s t : State} (h : OnlyTime s t) : TransferFrame s t := by
  obtain ⟨-, heng, htrk, -, -, hworld, -⟩ := h
  exact ⟨by rw [heng], by rw [heng], htrk, (congrArg World.calls hworld :)⟩

theorem awaitBusack_transferFrame (s : State) : TransferFrame s (awaitBusack s).2 := by
  have hline : TransferFrame s (assertLine .busRequest s) := ⟨rfl, rfl, rfl, rfl⟩
  exact hline.trans (awaitBusack_onlyTime s).transferFrame

theorem requestAndTake_transferFrame (s : State) : TransferFrame s (requestAndTake s).2 := by
  have hwait := awaitBusack_transferFrame s
  obtain h | ⟨-, -, h | h⟩ := requestAndTake_cases s <;> rw [h]
  · exact .refl s
  · exact hwait.trans ⟨rfl, rfl, rfl, rfl⟩
  · exact hwait.trans ⟨rfl, rfl, rfl, rfl⟩

theorem readBytes_transferFrame (io : Bool) (addr : Addr) (k n : Nat) (s : State) :
    TransferFrame s (readBytes io addr k n s).2 := by
  induction n generalizing k s with
  | zero => exact .refl s
  | succ n ih =>
    cases io with
    | false => exact ih (k + 1) s
    | true =>
      have hbyte : TransferFrame s (drawByte s).2 := ⟨by simp, by simp, by simp, by simp⟩
      exact hbyte.trans (ih (k + 1) _)

theorem writeBytes_transferFrame (io : Bool) (addr : Addr) (k : Nat) (bs : List Byte) (s : State) :
    TransferFrame s (writeBytes io addr k bs s) := by
  induction bs generalizing k s with
  | nil => exact .refl s
  | cons b bs ih =>
    refine TransferFrame.trans ?_ (ih (k + 1) _)
    cases io <;> exact ⟨rfl, rfl, rfl, rfl⟩

theorem transferFrame_transferStable (s : State) : TransferStable (TransferFrame s) :=
  transferStable_of_mastership (fun u hu => hu.trans (requestAndTake_transferFrame u))
    (fun _ hu => hu.trans ⟨rfl, rfl, rfl, rfl⟩)

theorem blockRead_transferFrame (addr : Addr) (len : Nat) (io auto : Bool) (s : State) :
    TransferFrame s (blockRead addr len io auto s).2 :=
  transferFrame_transferStable s _ (fun u hu => hu.trans (readBytes_transferFrame io addr 0 len u))
    len auto _ s (.refl s)

theorem blockWrite_transferFrame (addr : Addr) (buf : List Byte) (io auto : Bool) (s : State) :
    TransferFrame s (blockWrite addr buf io auto s).2 :=
  transferFrame_transferStable s _ (fun u hu => hu.trans (writeBytes_transferFrame io addr 0 buf u))
    buf.length auto _ s (.refl s)

/-- Where no transfer may run, a callback's command writes slots or tables. -/
theorem callbackCommand_slotsOrTables (c : CbCommand) (s : State) :
    SlotsOrTables s (callbackCommand false c s).2 :=
  callbackCommand_keeps (P := SlotsOrTables s) (m := false) (.refl s)
    (fun h _ => changeSocket_slotsOrTables h _ s) (fun h _ _ => changeSocket_slotsOrTables h _ s)
    (fun h _ => changeSocket_slotsOrTables h _ s)
    (fun h a r => requestAction_slotsOrTables h a r s) (fun h r => requestBus_slotsOrTables h r s)
    (fun _ _ _ => ⟨rfl, rfl, rfl⟩) (absurd · Bool.false_ne_true) (absurd · Bool.false_ne_true) c

/-- Every command of a callback leaves the action in progress, the tracker, the number of sockets and the
record of calls. -/
theorem callbackCommand_transferFrame (m : Bool) (c : CbCommand) (s : State) :
    TransferFrame s (callbackCommand m c s).2 :=
  callbackCommand_keeps (P := TransferFrame s) (.refl s)
    (fun h _ => (changeSocket_slotsOrTables h _ s).transferFrame)
    (fun h _ _ => (changeSocket_slotsOrTables h _ s).transferFrame)
    (fun h _ => (changeSocket_slotsOrTables h _ s).transferFrame)
    (fun h a r => (requestAction_slotsOrTables h a r s).transferFrame)
    (fun h r => (requestBus_slotsOrTables h r s).transferFrame)
    (fun _ _ _ => ⟨rfl, rfl, rfl, rfl⟩)
    (fun _ addr len io auto => blockRead_transferFrame addr len io auto s)
    (fun _ addr buf io auto => blockWrite_transferFrame addr buf io auto s) c

/-! ### The calls that issue them -/

/-- A collaborator's `on_wait_cycle` takes its next reply: its commands run, no transfer among them, and it
answers the reply's decision. -/
theorem callWait_script {s : State} {h : Nat} {r : WaitReply} {rs : List WaitReply}
    (hk : (sockAt s h).onWaitCycle = .script (r :: rs)) (addr : Addr) (data : Byte) (f : CtrlFlags) :
    callWait h addr data f s =
      (r.decision, runCallbackCommands h false r.cmds
        (setSock h { sockAt s h with onWaitCycle := .script rs }
          (logCall (.waitCycle h addr data f) s))) := by
  simp [callWait, nextWaitReply, hk]

/-- As `callWait_script`, for `on_bus_action_complete`, which may transfer where the engine lends the bus. -/
theorem callDone_script {s : State} {h : Nat} {cs : List CbCommand} {rs : List (List CbCommand)}
    (hk : (sockAt s h).onDone = .script (cs :: rs)) (a : BusAction) (reason : Byte) (o : ActOutcome) :
    callDone a reason o h s =
      runCallbackCommands h (decide (a = .busRequest ∧ o = .ok)) cs
        (setSock h { sockAt s h with onDone := .script rs } (logCall (.complete h a reason o) s)) := by
  simp [callDone, nextDoneReply, hk]

/-- Settles O11: a word runs as R147 lists it or is refused, and the two callbacks issue their words one by
one. -/
theorem callbackRefusals : Obligations.CallbackRefusals := by
  intro s mayTransfer c
  have hframe := callbackCommand_transferFrame mayTransfer c s
  have hquiet := callbackCommand_slotsOrTables c s
  refine ⟨fun i hd hi => callbackCommand_refused s hd ?arbiter, fun auto io addr hd => ?transfer,
    ⟨hframe.act, hframe.trk, hframe.numSockets, hframe.calls, hquiet.world, hquiet.mastered⟩,
    fun i => callbackCommand_refused s, callbackCommand_illegal s,
    fun i => exec_of_callbackMay, fun h addr data f d rs hk => ⟨_, rfl, callWait_script hk addr data f⟩,
    fun h a reason o rs hk => ⟨_, _, decide_eq_true_iff, rfl, callDone_script hk a reason o⟩,
    fun h cs => rfl⟩
  case arbiter => fin_cases hi <;> rfl
  case transfer => exact hd.elim (callbackCommand_refused s · rfl) (callbackCommand_refused s · rfl)

end Sys2Proof.Machine
end

section
/-! SUPPORT. The merge of a fan-out (41_wait_service.md R177) and the counters of a serviced cycle
(41_wait_service.md R181). -/

namespace Sys2Proof.Machine

/-! ### The merge -/

/-- The search for an InjectOpcode passes everything else over. -/
theorem firstInject_of_first {ds : List Decision} {k : Nat} {b : Byte}
    (hk : ds[k]? = some (.injectOpcode b)) (hfirst : ∀ j, j < k → ∀ b', ds[j]? ≠ some (.injectOpcode b')) :
    firstInject ds = .injectOpcode b := by
  induction ds generalizing k with
  | nil => simp at hk
  | cons d ds ih =>
    cases k with
    | zero =>
      obtain rfl : d = .injectOpcode b := by simpa using hk
      rfl
    | succ k =>
      have htail := ih (by simpa using hk) fun j hj b' => by simpa using hfirst (j + 1) (by omega) b'
      cases d with
      | injectOpcode b' => exact absurd rfl (hfirst 0 (by omega) b')
      | notDecoded => exact htail
      | value v => exact htail

theorem firstInject_of_none {ds : List Decision} (h : ∀ b, Decision.injectOpcode b ∉ ds) :
    firstInject ds = .notDecoded := by
  induction ds with
  | nil => rfl
  | cons d ds ih =>
    have htail := ih fun b hb => h b (List.mem_cons_of_mem _ hb)
    cases d with
    | injectOpcode b => exact absurd (List.mem_cons_self ..) (h b)
    | notDecoded => exact htail
    | value v => exact htail

/-- The search for a Value passes everything else over. -/
theorem firstValue_of_first {ds : List Decision} {k : Nat} {b : Byte}
    (hk : ds[k]? = some (.value b)) (hfirst : ∀ j, j < k → ∀ b', ds[j]? ≠ some (.value b')) :
    firstValue ds = .value b := by
  induction ds generalizing k with
  | nil => simp at hk
  | cons d ds ih =>
    cases k with
    | zero =>
      obtain rfl : d = .value b := by simpa using hk
      rfl
    | succ k =>
      have htail := ih (by simpa using hk) fun j hj b' => by simpa using hfirst (j + 1) (by omega) b'
      cases d with
      | value b' => exact absurd rfl (hfirst 0 (by omega) b')
      | notDecoded => exact htail
      | injectOpcode v => exact htail

theorem firstValue_of_none {ds : List Decision} (h : ∀ d ∈ ds, d = .notDecoded) :
    firstValue ds = .notDecoded := by
  induction ds with
  | nil => rfl
  | cons d ds ih =>
    obtain rfl := h d (List.mem_cons_self ..)
    exact ih fun e he => h e (List.mem_cons_of_mem _ he)

theorem mergeDecisions_of_inject {ds : List Decision} {b : Byte} (h : firstInject ds = .injectOpcode b) :
    mergeDecisions ds = .injectOpcode b := by
  simp [mergeDecisions, h]

theorem mergeDecisions_of_no_inject {ds : List Decision} (h : firstInject ds = .notDecoded) :
    mergeDecisions ds = firstValue ds := by
  simp [mergeDecisions, h]

/-- Settles O19: each search finds the first decision of its kind, and the one for an InjectOpcode goes
first. -/
theorem mergeTakesFirstInjectThenFirstValue : Obligations.MergeTakesFirstInjectThenFirstValue := by
  intro ds
  refine ⟨fun k b hk hfirst => ?_, fun k b hno hk hfirst => ?_, fun hall => ?_⟩
  · exact mergeDecisions_of_inject (firstInject_of_first hk hfirst)
  · rw [mergeDecisions_of_no_inject (firstInject_of_none hno)]
    exact firstValue_of_first hk hfirst
  · have hno : ∀ b, Decision.injectOpcode b ∉ ds := fun b hb => nomatch hall _ hb
    rw [mergeDecisions_of_no_inject (firstInject_of_none hno)]
    exact firstValue_of_none hall

/-! ### The counters -/

/-- Counts a cycle in its one category (41_wait_service.md R181). -/
def countCategory (f : CtrlFlags) (c : Counters) : Counters :=
  { c with
    mreqRd := c.mreqRd + (if isMemRead f then 1 else 0)
    mreqWr := c.mreqWr + (if isMemWrite f then 1 else 0)
    irqAck := c.irqAck + (if isIrqAck f then 1 else 0)
    iorqRd := c.iorqRd + (if isIo f && isRead f then 1 else 0)
    iorqWr := c.iorqWr + (if isIo f && isWrite f then 1 else 0) }

/-- The latency counters after a cycle of `len` (41_wait_service.md R181). -/
def countLatency (len : Nat) (c : Counters) : Counters :=
  { c with
    latSumUs := c.latSumUs + BitVec.ofNat 32 len
    latMaxUs := BitVec.ofNat 32 (max c.latMaxUs.toNat len)
    latAvgUs := if c.total ≠ 0 then (c.latSumUs + BitVec.ofNat 32 len) / c.total else c.latAvgUs }

/-- No cycle is in two categories (30_encoding.md R101). -/
theorem categories_disjoint (f : CtrlFlags) :
    (isMemRead f = true → isMemWrite f = false ∧ isIrqAck f = false ∧ isIo f = false) ∧
    (isMemWrite f = true → isIrqAck f = false ∧ isIo f = false) ∧
    (isIrqAck f = true → isIo f = false) ∧ (isRead f = true → isWrite f = false) := by
  simp only [isMemRead, isMemWrite, isIrqAck, isIo, isRead, isWrite, isMem]
  cases flagRd f <;> cases flagWr f <;> cases flagMreq f <;> cases flagIorq f <;> cases flagM1 f <;>
    decide

/-- R181 asks for the categories one after the other; they are disjoint, so each has its own count. -/
theorem countCategory_eq (f : CtrlFlags) (c : Counters) :
    (if isMemRead f then { c with mreqRd := c.mreqRd + 1 }
      else if isMemWrite f then { c with mreqWr := c.mreqWr + 1 }
      else if isIrqAck f then { c with irqAck := c.irqAck + 1 }
      else if isIo f && isRead f then { c with iorqRd := c.iorqRd + 1 }
      else if isIo f && isWrite f then { c with iorqWr := c.iorqWr + 1 }
      else c) = countCategory f c := by
  obtain ⟨hread, hwrite, hack, hio⟩ := categories_disjoint f
  unfold countCategory
  cases hmr : isMemRead f with
  | true => simp [hread hmr]
  | false =>
    cases hmw : isMemWrite f with
    | true => simp [hwrite hmw]
    | false =>
      cases hia : isIrqAck f with
      | true => simp [hack hia]
      | false =>
        cases hi : isIo f with
        | false => simp
        | true =>
          cases hr : isRead f with
          | true => simp [hio hr]
          | false => cases hw : isWrite f <;> simp

theorem countCycle_eq (f : CtrlFlags) (len : Nat) (c : Counters) :
    countCycle f len c = countLatency len (countCategory f { c with total := c.total + 1 }) := by
  have hcat := countCategory_eq f { c with total := c.total + 1 }
  generalize countCategory f { c with total := c.total + 1 } = k at hcat ⊢
  unfold countCycle countLatency
  dsimp only at hcat ⊢
  rw [hcat]
  by_cases hz : k.total ≠ 0
  · rw [if_pos hz, if_pos hz]
  · rw [if_neg hz, if_neg hz]

/-- The counts of a cycle do not depend on the diagnostic counters (41_wait_service.md R186). -/
theorem countCycle_noDiag (f : CtrlFlags) (len : Nat) (c : Counters) :
    (countCycle f len c).noDiag = countCycle f len c.noDiag := by
  simp only [countCycle_eq]
  rfl

/-- Settles O13: one count of the cycle's category, then the latency. -/
theorem countersOfACycle : Obligations.CountersOfACycle := by
  intro f len c hlen
  have hmax : max c.latMaxUs.toNat len < 2 ^ 32 := max_lt c.latMaxUs.isLt hlen
  have hsum : (c.latSumUs + BitVec.ofNat 32 len).toNat = (c.latSumUs.toNat + len) % 2 ^ 32 := by
    simp
  rw [countCycle_eq]
  refine ⟨rfl, rfl, rfl, rfl, rfl, rfl, hsum, Nat.mod_eq_of_lt hmax, fun hfits => ?_, fun hwraps => ?_,
    rfl, rfl, rfl, rfl⟩
  · have htotal : (c.total + 1).toNat = c.total.toNat + 1 := by
      rw [BitVec.toNat_add]
      exact Nat.mod_eq_of_lt hfits
    have hne : c.total + 1 ≠ 0 := fun h => by rw [h] at htotal; cases htotal
    rw [← hsum, ← htotal, ← BitVec.toNat_udiv]
    exact congrArg BitVec.toNat (if_pos hne)
  · have hzero : c.total + 1 = 0 := BitVec.eq_of_toNat_eq (by rw [BitVec.toNat_add]; simp [hwraps])
    exact if_neg (not_not.mpr hzero)

end Sys2Proof.Machine
end

section
/-! SUPPORT. What the tracker's callback reads (45_tracker.md R320): neither the wait in progress, but for the
hold, nor the counters, nor the world. So it does the same in the middle of a tick as before it. -/

namespace Sys2Proof.Machine

/-- The state with another wait in progress, but for the hold, other counters and another world. -/
def State.redress (w : WaitState) (c : Counters) (v : World) (s : State) : State :=
  (s.withEng { s.eng with wait := { w with hold := s.eng.wait.hold }, counters := c }).withWorld v

section
variable (w : WaitState) (c : Counters) (v : World) (s : State)

@[simp] theorem redress_cfg : (s.redress w c v).cfg = s.cfg := rfl
@[simp] theorem redress_trk : (s.redress w c v).trk = s.trk := rfl
@[simp] theorem redress_bp : (s.redress w c v).bp = s.bp := rfl
@[simp] theorem redress_port : (s.redress w c v).port = s.port := rfl
@[simp] theorem redress_world : (s.redress w c v).world = v := rfl
@[simp] theorem redress_act : (s.redress w c v).eng.act = s.eng.act := rfl
@[simp] theorem redress_mastered : (s.redress w c v).eng.mastered = s.eng.mastered := rfl
@[simp] theorem redress_numSockets : (s.redress w c v).eng.numSockets = s.eng.numSockets := rfl
@[simp] theorem redress_hold : (s.redress w c v).eng.wait.hold = s.eng.wait.hold := rfl
@[simp] theorem redress_sockAt (h : Nat) : sockAt (s.redress w c v) h = sockAt s h := rfl

theorem redress_withTrk (k : Tracker) : (s.redress w c v).withTrk k = (s.withTrk k).redress w c v := rfl

theorem redress_changeSocket (h : Nat) (f : Socket → Socket) :
    (changeSocket h f (s.redress w c v)).2 = (changeSocket h f s).2.redress w c v := by
  by_cases hh : h < s.eng.numSockets
  · rw [changeSocket_ok hh, changeSocket_ok (s := s.redress w c v) hh]; rfl
  · rw [changeSocket_bad hh, changeSocket_bad (s := s.redress w c v) hh]

theorem redress_requestMirror :
    requestMirror (s.redress w c v) = (requestMirror s).redress w c v := by
  by_cases hh : s.trk.socket < s.eng.numSockets
  · by_cases hb : (sockAt s s.trk.socket).busMasterRequest = none
    · simp only [requestMirror, redress_trk]
      rw [requestBus_ok _ hh hb, requestBus_ok (s := s.redress w c v) _ hh hb]; rfl
    · simp only [requestMirror, redress_trk]
      rw [requestBus_busy _ hh hb, requestBus_busy (s := s.redress w c v) _ hh hb]
  · simp only [requestMirror, redress_trk]
    rw [requestBus_unregistered _ (Nat.not_lt.mp hh),
      requestBus_unregistered (s := s.redress w c v) _ (Nat.not_lt.mp hh)]

theorem redress_releaseHold : releaseHold (s.redress w c v) = (releaseHold s).redress w c v := by
  unfold releaseHold
  simp only [redress_trk, setHold, redress_changeSocket]
  split <;> rfl

theorem redress_doDisable : doDisable (s.redress w c v) = (doDisable s).redress w c v := by
  simp only [doDisable, redress_releaseHold, enableSocket, setWaitOn, redress_withTrk,
    redress_changeSocket, redress_trk]

theorem redress_finishInjection :
    finishInjection (s.redress w c v) = (finishInjection s).redress w c v := by
  unfold finishInjection
  simp only [redress_trk, redress_withTrk, redress_doDisable]
  split <;> rfl

theorem redress_recordFetch (b : Byte) :
    recordFetch b (s.redress w c v) = (recordFetch b s).redress w c v := rfl

theorem redress_ite {p : Prop} [Decidable p] (t : State) :
    (if p then s.redress w c v else t.redress w c v) = (if p then s else t).redress w c v := by
  split <;> rfl

theorem redress_injectStep (addr : Addr) (data : Byte) (f : CtrlFlags) :
    injectStep addr data f (s.redress w c v) =
      ((injectStep addr data f s).1, (injectStep addr data f s).2.redress w c v) := by
  unfold injectStep
  simp only [redress_trk, redress_withTrk, redress_recordFetch, redress_requestMirror, redress_ite,
    redress_finishInjection]
  split
  · rfl
  · split <;> rfl

theorem redress_startInjection (addr : Addr) (hit : Bool) :
    startInjection addr hit (s.redress w c v) = (startInjection addr hit s).redress w c v := rfl

theorem redress_noteBreak (addr : Addr) (hit : Option (BpTable × Nat × String)) :
    noteBreak addr hit (s.redress w c v) = (noteBreak addr hit s).redress w c v := by
  cases hit <;> rfl

theorem redress_takeHold (data : Byte) :
    takeHold data (s.redress w c v) = (takeHold data s).redress w c v := by
  simp only [takeHold, setHold, redress_withTrk, redress_changeSocket, redress_recordFetch, redress_trk]

theorem redress_checkForBreak (addr : Addr) (f : CtrlFlags) :
    checkForBreak addr f (s.redress w c v) = checkForBreak addr f s := rfl

theorem redress_boundaryStep (addr : Addr) (data : Byte) (f : CtrlFlags) :
    boundaryStep addr data f (s.redress w c v) =
      ((boundaryStep addr data f s).1, (boundaryStep addr data f s).2.redress w c v) := by
  unfold boundaryStep
  simp only [redress_checkForBreak, redress_noteBreak, redress_trk, redress_recordFetch,
    redress_takeHold, redress_startInjection, redress_injectStep, redress_withTrk]
  split
  · rfl
  · split
    · rfl
    · split <;> rfl

theorem redress_trackerOnWaitCycle (addr : Addr) (data : Byte) (f : CtrlFlags) :
    trackerOnWaitCycle addr data f (s.redress w c v) =
      ((trackerOnWaitCycle addr data f s).1, (trackerOnWaitCycle addr data f s).2.redress w c v) := by
  unfold trackerOnWaitCycle
  simp only [redress_trk, redress_injectStep, redress_boundaryStep]
  split
  · rfl
  · split
    · rfl
    · split <;> rfl

/-- The tracker has handle 0 and is enabled. -/
abbrev TrackerCalled (s : State) : Prop := TrackerFirst s ∧ (sockAt s 0).enabled = true

theorem trackerTurn_called {s : State} (h : TrackerCalled s) (addr : Addr) (data : Byte) (f : CtrlFlags) :
    trackerTurn addr data f s = trackerOnWaitCycle addr data f s := if_pos h

theorem trackerTurn_skipped {s : State} (h : ¬ TrackerCalled s) (addr : Addr) (data : Byte)
    (f : CtrlFlags) : trackerTurn addr data f s = (.notDecoded, s) := if_neg h

/-- The tracker's turn does the same in the middle of a tick as before it. -/
theorem redress_trackerTurn (addr : Addr) (data : Byte) (f : CtrlFlags) :
    trackerTurn addr data f (s.redress w c v) =
      ((trackerTurn addr data f s).1, (trackerTurn addr data f s).2.redress w c v) := by
  by_cases h : TrackerCalled s
  · rw [trackerTurn_called h, trackerTurn_called (s := s.redress w c v) h, redress_trackerOnWaitCycle]
  · rw [trackerTurn_skipped h, trackerTurn_skipped (s := s.redress w c v) h]

theorem redress_self : s.redress s.eng.wait s.eng.counters v = s.withWorld v := rfl

theorem redress_redress (w' : WaitState) (c' : Counters) (v' : World) :
    (s.redress w c v).redress w' c' v' = s.redress w' c' v' := rfl

end

end Sys2Proof.Machine
end

section
/-! SUPPORT. The fan-out of a wait cycle (41_wait_service.md R176): which calls it records, its turns one by
one, and what it does where no collaborator issues a command. -/

namespace Sys2Proof.Machine

/-! ### The record of calls -/

/-- The same callbacks have been called; the commands that they issued may differ. -/
structure SameReports (s t : State) : Prop where
  wait : waitCalls t = waitCalls s
  done : doneCalls t = doneCalls s

theorem SameReports.refl (s : State) : SameReports s s := ⟨rfl, rfl⟩

theorem SameReports.trans {s t u : State} (h : SameReports s t) (g : SameReports t u) : SameReports s u :=
  ⟨g.wait.trans h.wait, g.done.trans h.done⟩

theorem SameReports.of_calls {s t : State} (h : t.world.calls = s.world.calls) : SameReports s t :=
  ⟨by rw [waitCalls, waitCalls, h], by rw [doneCalls, doneCalls, h]⟩

theorem waitCalls_logCall_wait (h : Nat) (addr : Addr) (data : Byte) (f : CtrlFlags) (s : State) :
    waitCalls (logCall (.waitCycle h addr data f) s) = .waitCycle h addr data f :: waitCalls s := rfl

theorem doneCalls_logCall_complete (h : Nat) (a : BusAction) (reason : Byte) (o : ActOutcome)
    (s : State) : doneCalls (logCall (.complete h a reason o) s) =
      .complete h a reason o :: doneCalls s := rfl

theorem runCallbackCommands_reports (h : Nat) (m : Bool) (cs : List CbCommand) (s : State) :
    SameReports s (runCallbackCommands h m cs s) :=
  runCallbackCommands_keeps (P := SameReports s)
    (fun c u hu => hu.trans (.of_calls (callbackCommand_transferFrame m c u).calls))
    (fun _ _ _ hu => hu.trans ⟨rfl, rfl⟩) cs (.refl s)

theorem nextWaitReply_calls (h : Nat) (s : State) :
    (nextWaitReply h s).2.world.calls = s.world.calls := by
  obtain ⟨_, _, -, hn⟩ | ⟨_, hn⟩ | ⟨-, hn⟩ := nextWaitReply_cases h s <;> rw [hn] <;> rfl

theorem nextDoneReply_calls (h : Nat) (s : State) :
    (nextDoneReply h s).2.world.calls = s.world.calls := by
  obtain ⟨_, _, -, hn⟩ | ⟨_, hn⟩ | ⟨-, hn⟩ := nextDoneReply_cases h s <;> rw [hn] <;> rfl

/-- A call of `on_wait_cycle` is recorded, and no other call of a callback. -/
theorem callWait_reports (h : Nat) (addr : Addr) (data : Byte) (f : CtrlFlags) (s : State) :
    SameReports (logCall (.waitCycle h addr data f) s) (callWait h addr data f s).2 := by
  unfold callWait
  simp only
  split
  · exact .of_calls (by rw [(trackerOnWaitCycle_onlyEngTrk _ _ _ _).world])
  · exact SameReports.trans (.of_calls (nextWaitReply_calls h _)) (runCallbackCommands_reports h _ _ _)

/-- A call of `on_bus_action_complete` is recorded, and no other call of a callback. -/
theorem callDone_reports (a : BusAction) (reason : Byte) (o : ActOutcome) (h : Nat) (s : State) :
    SameReports (logCall (.complete h a reason o) s) (callDone a reason o h s) := by
  unfold callDone
  simp only
  split
  · exact .of_calls (by rw [(trackerOnComplete_onlyEngTrk _ _ _ _).world])
  · exact SameReports.trans (.of_calls (nextDoneReply_calls h _)) (runCallbackCommands_reports h _ _ _)

/-! ### Turn by turn -/

section
variable (addr : Addr) (data : Byte) (f : CtrlFlags)

/-- A fan-out calls some of its handles, in their order. -/
theorem fanOut_calls (hs : List Nat) (s : State) :
    ∃ called : List Nat, called.Sublist hs ∧
      waitCalls (fanOut addr data f hs s).2 =
        (called.map (fun h => CallRecord.waitCycle h addr data f)).reverse ++ waitCalls s := by
  induction hs generalizing s with
  | nil => exact ⟨[], .refl _, rfl⟩
  | cons h hs ih =>
    cases he : (sockAt s h).enabled with
    | false =>
      obtain ⟨called, hsub, hcalls⟩ := ih s
      rw [fanOut_passed he]
      exact ⟨called, hsub.cons h, hcalls⟩
    | true =>
      obtain ⟨called, hsub, hcalls⟩ := ih (callWait h addr data f s).2
      rw [fanOut_called he]
      refine ⟨h :: called, hsub.cons_cons h, hcalls.trans ?_⟩
      rw [(callWait_reports h addr data f s).wait, waitCalls_logCall_wait]
      simp

/-- A fan-out over two lists is a fan-out over the first and then over the second. -/
theorem fanOut_append (hs js : List Nat) (s : State) :
    fanOut addr data f (hs ++ js) s =
      ((fanOut addr data f hs s).1 ++ (fanOut addr data f js (fanOut addr data f hs s).2).1,
        (fanOut addr data f js (fanOut addr data f hs s).2).2) := by
  induction hs generalizing s with
  | nil => rfl
  | cons h hs ih =>
    cases he : (sockAt s h).enabled with
    | false => simp [fanOut_passed he, ih]
    | true => simp [fanOut_called he, ih]

/-- The state when socket `h`'s turn comes in a fan-out. -/
def turnState (s : State) (h : Nat) : State := (fanOut addr data f (List.range h) s).2

theorem turnState_succ (s : State) (h : Nat) :
    turnState addr data f s (h + 1) = (fanOut addr data f [h] (turnState addr data f s h)).2 := by
  rw [turnState, List.range_succ, fanOut_append]
  rfl

/-- A fan-out is its first `h` turns, socket `h`'s turn, and the turns after it. -/
theorem fanOut_range_split (s : State) {h n : Nat} (hn : h < n) :
    ∃ js, (fanOut addr data f (List.range n) s).1 =
      (fanOut addr data f (List.range h) s).1 ++
        (fanOut addr data f (h :: js) (turnState addr data f s h)).1 := by
  obtain ⟨k, rfl⟩ := Nat.exists_eq_add_of_lt hn
  refine ⟨(List.range k).map (h + 1 + ·), ?_⟩
  rw [show h + k + 1 = h + 1 + k by omega, List.range_add, List.range_succ, List.append_assoc,
    fanOut_append]
  rfl

/-- The decision of socket `h` is the first of what a fan-out from its turn on decides. -/
theorem fanOut_decision (s : State) {h n : Nat} (hn : h < n) :
    ∃ js, (fanOut addr data f (List.range n) s).1[h]? =
      (fanOut addr data f (h :: js) (turnState addr data f s h)).1[0]? := by
  obtain ⟨js, hjs⟩ := fanOut_range_split addr data f s hn
  refine ⟨js, ?_⟩
  rw [hjs, List.getElem?_append_right (by simp)]
  simp

end

/-! ### Where every callback only answers -/

/-- What the decision of socket `h` is, where it only answers. -/
def plainDecision (s : State) (h : Nat) : Decision :=
  if (sockAt s h).enabled then (scriptedAnswer s h).getD .notDecoded else .notDecoded

/-- The wait calls of the given handles have been recorded, and scripts have given replies; nothing else
has happened. -/
structure OnlyReplies (cs : List CallRecord) (s t : State) : Prop where
  frame : t = (s.withEng { s.eng with sock := t.eng.sock }).withWorld
    { s.world with calls := cs.reverse ++ s.world.calls }
  kept : SocketsKept s t

theorem OnlyReplies.refl (s : State) : OnlyReplies [] s s := ⟨rfl, fun _ => rfl⟩

theorem OnlyReplies.trans {cs ds : List CallRecord} {s t u : State} (h : OnlyReplies cs s t)
    (g : OnlyReplies ds t u) : OnlyReplies (cs ++ ds) s u := by
  refine ⟨?_, fun j => ?_⟩
  · rw [g.frame, h.frame]
    simp [State.withEng, State.withWorld]
  · rw [← h.kept j, ← g.kept j]

/-- The replies that a fan-out takes are recorded as its calls, newest first. -/
theorem OnlyReplies.calls {addr : Addr} {data : Byte} {f : CtrlFlags} {hs : List Nat} {s t : State}
    (h : OnlyReplies (hs.map fun j => CallRecord.waitCycle j addr data f) s t) :
    waitCalls t = (hs.map fun j => CallRecord.waitCycle j addr data f).reverse ++ waitCalls s ∧
    doneCalls t = doneCalls s := by
  rw [h.frame]
  simp only [waitCalls, doneCalls, State.withWorld_world, List.filter_append]
  constructor
  · congr 1
    refine List.filter_eq_self.mpr fun c hc => ?_
    obtain ⟨j, -, rfl⟩ := List.mem_map.mp (List.mem_reverse.mp hc)
    rfl
  · rw [List.filter_eq_nil_iff.mpr fun c hc => ?_, List.nil_append]
    obtain ⟨j, -, rfl⟩ := List.mem_map.mp (List.mem_reverse.mp hc)
    exact Bool.false_ne_true

theorem scriptedAnswer_congr {s t : State} {h : Nat} (hk : sockAt t h = sockAt s h) :
    scriptedAnswer t h = scriptedAnswer s h := by
  rw [scriptedAnswer, scriptedAnswer, hk]

theorem plainDecision_congr {s t : State} {h : Nat} (hk : sockAt t h = sockAt s h) :
    plainDecision t h = plainDecision s h := by
  rw [plainDecision, plainDecision, hk, scriptedAnswer_congr hk]

/-- Socket `h`'s next reply only answers. -/
theorem scriptedAnswer_eq_some {s : State} {h : Nat} {d : Decision} (hd : scriptedAnswer s h = some d) :
    ∃ r rs, (sockAt s h).onWaitCycle = .script (r :: rs) ∧ r.cmds = [] ∧ r.decision = d := by
  unfold scriptedAnswer at hd
  split at hd
  · split at hd
    · rename_i r rs hk hc
      exact ⟨r, rs, hk, List.isEmpty_iff.mp hc, Option.some.inj hd⟩
    · cases hd
  all_goals cases hd

/-- The call of a collaborator that only answers takes its next reply. -/
theorem callWait_answers {s : State} {h : Nat} {d : Decision} (hd : scriptedAnswer s h = some d)
    (addr : Addr) (data : Byte) (f : CtrlFlags) :
    (callWait h addr data f s).1 = d ∧
    OnlyReplies [.waitCycle h addr data f] s (callWait h addr data f s).2 ∧
    ∀ j, j ≠ h → sockAt (callWait h addr data f s).2 j = sockAt s j := by
  obtain ⟨r, rs, hk, hc, rfl⟩ := scriptedAnswer_eq_some hd
  rw [callWait_script hk, hc]
  refine ⟨rfl, ⟨rfl, fun j => ?_⟩, fun j hj => sockAt_setSock_other hj _⟩
  exact sockAt_setSock_related (R := fun k k' => { k' with onWaitCycle := k.onWaitCycle } = k)
    (fun _ => rfl) (s := logCall (.waitCycle h addr data f) s)
    (k := { sockAt s h with onWaitCycle := .script rs }) rfl j

/-- A fan-out over collaborators that only answer decides what they answer. -/
theorem fanOut_answers (addr : Addr) (data : Byte) (f : CtrlFlags) {hs : List Nat} (hnd : hs.Nodup)
    {s : State} (hans : ∀ h ∈ hs, (sockAt s h).enabled = true → (scriptedAnswer s h).isSome = true) :
    (fanOut addr data f hs s).1 = hs.map (plainDecision s) ∧
    OnlyReplies ((hs.filter (fun h => (sockAt s h).enabled)).map
      (fun h => CallRecord.waitCycle h addr data f)) s (fanOut addr data f hs s).2 := by
  induction hs generalizing s with
  | nil => exact ⟨rfl, .refl s⟩
  | cons h hs ih =>
    obtain ⟨hmem, hnd'⟩ := List.nodup_cons.mp hnd
    cases he : (sockAt s h).enabled with
    | false =>
      obtain ⟨hds, hreplies⟩ := ih hnd' fun j hj => hans j (List.mem_cons_of_mem _ hj)
      rw [fanOut_passed he]
      simp [hds, plainDecision, he, hreplies]
    | true =>
      obtain ⟨d, hd⟩ := Option.isSome_iff_exists.mp (hans h (List.mem_cons_self ..) he)
      obtain ⟨hdec, hcall, hother⟩ := callWait_answers hd addr data f
      have hsame : ∀ j ∈ hs, sockAt (callWait h addr data f s).2 j = sockAt s j :=
        fun j hj => hother j fun heq => hmem (heq ▸ hj)
      obtain ⟨hds, hreplies⟩ := ih (s := (callWait h addr data f s).2) hnd' fun j hj => by
        rw [scriptedAnswer_congr (hsame j hj), hsame j hj]
        exact hans j (List.mem_cons_of_mem _ hj)
      rw [fanOut_called he]
      refine ⟨?_, ?_⟩
      · have hself : plainDecision s h = d := by simp [plainDecision, he, hd]
        rw [hds, hdec, List.map_cons, hself, List.cons_inj_right]
        exact List.map_congr_left fun j hj => plainDecision_congr (hsame j hj)
      · rw [List.filter_congr fun j hj => by rw [hsame j hj]] at hreplies
        simpa [he] using hcall.trans hreplies

/-! ### The tracker among them -/

/-- Only the tracker and its own slot differ, and what is computed from the slots. -/
structure OnlyTrackerSlot (s t : State) : Prop where
  handle : t.trk.socket = s.trk.socket
  numSockets : t.eng.numSockets = s.eng.numSockets
  others : ∀ j, j ≠ s.trk.socket → sockAt t j = sockAt s j

namespace OnlyTrackerSlot

theorem refl (s : State) : OnlyTrackerSlot s s := ⟨rfl, rfl, fun _ _ => rfl⟩

theorem trans {s t u : State} (h : OnlyTrackerSlot s t) (g : OnlyTrackerSlot t u) :
    OnlyTrackerSlot s u :=
  ⟨g.handle.trans h.handle, g.numSockets.trans h.numSockets,
    fun j hj => (g.others j (h.handle ▸ hj)).trans (h.others j hj)⟩

theorem withTrk {s : State} {k : Tracker} (hk : k.socket = s.trk.socket) :
    OnlyTrackerSlot s (s.withTrk k) := ⟨hk, rfl, fun _ _ => rfl⟩

theorem changeSocket (f : Socket → Socket) (s : State) :
    OnlyTrackerSlot s (changeSocket s.trk.socket f s).2 := by
  by_cases hh : s.trk.socket < s.eng.numSockets
  · rw [changeSocket_ok hh]
    exact ⟨rfl, rfl, fun _ hj => sockAt_setSock_other hj _⟩
  · rw [changeSocket_bad hh]
    exact refl s

theorem requestMirror (s : State) : OnlyTrackerSlot s (requestMirror s) := by
  unfold Machine.requestMirror requestBus
  split
  · split
    · exact refl s
    · exact ⟨rfl, rfl, fun _ hj => sockAt_setSock_other hj _⟩
  · exact refl s

theorem releaseHold (s : State) : OnlyTrackerSlot s (releaseHold s) := by
  unfold Machine.releaseHold
  split
  · exact (changeSocket _ s).trans (withTrk rfl)
  · exact refl s

theorem doDisable (s : State) : OnlyTrackerSlot s (doDisable s) := by
  unfold Machine.doDisable
  refine OnlyTrackerSlot.trans ?_ (changeSocket _ _)
  refine OnlyTrackerSlot.trans ?_ (changeSocket _ _)
  exact (releaseHold s).trans (withTrk rfl)

theorem finishInjection (s : State) : OnlyTrackerSlot s (finishInjection s) := by
  unfold Machine.finishInjection
  simp only
  split
  · refine OnlyTrackerSlot.trans (withTrk ?_) (doDisable _)
    exact finishRegs_socket _
  · exact withTrk (finishRegs_socket _)

theorem injectStep (addr : Addr) (data : Byte) (f : CtrlFlags) (s : State) :
    OnlyTrackerSlot s (injectStep addr data f s).2 := by
  have hlast : ∀ u, OnlyTrackerSlot s u → OnlyTrackerSlot s
      (if u.trk.cursor = u.trk.seq.length then Machine.finishInjection u else u) := by
    intro u hu
    split
    · exact hu.trans (finishInjection u)
    · exact hu
  unfold Machine.injectStep
  split
  · refine hlast _ ?_
    split <;> exact ⟨rfl, rfl, fun _ _ => rfl⟩
  · split
    · simp only
      split
      · exact (withTrk (k := captureWrite addr data s.trk) rfl).trans (requestMirror _)
      · exact withTrk rfl
    · exact refl s

theorem takeHold (data : Byte) (s : State) : OnlyTrackerSlot s (takeHold data s) := by
  have hdisarm : OnlyTrackerSlot s (s.withTrk { s.trk with holdArmed := false }) := withTrk rfl
  exact (hdisarm.trans (changeSocket _ _)).trans ⟨rfl, rfl, fun _ _ => rfl⟩

theorem startInjection (addr : Addr) (hit : Bool) (s : State) :
    OnlyTrackerSlot s (startInjection addr hit s) := by
  refine withTrk ?_
  simp only
  split <;> rfl

theorem boundaryStep (addr : Addr) (data : Byte) (f : CtrlFlags) (s : State) :
    OnlyTrackerSlot s (boundaryStep addr data f s).2 := by
  have hnote : OnlyTrackerSlot s (noteBreak addr (checkForBreak addr f s) s) := by
    unfold noteBreak
    split
    · exact withTrk rfl
    · exact refl s
  unfold Machine.boundaryStep
  simp only
  split
  · exact hnote.trans (withTrk rfl)
  · split
    · exact hnote.trans (takeHold _ _)
    · split
      · exact (hnote.trans (startInjection _ _ _)).trans (injectStep _ _ _ _)
      · exact hnote.trans (withTrk rfl)

theorem trackerOnWaitCycle (addr : Addr) (data : Byte) (f : CtrlFlags) (s : State) :
    OnlyTrackerSlot s (trackerOnWaitCycle addr data f s).2 := by
  unfold Machine.trackerOnWaitCycle
  split
  · exact refl s
  · split
    · exact injectStep _ _ _ _
    · split
      · exact refl s
      · exact boundaryStep _ _ _ _

theorem trackerTurn (addr : Addr) (data : Byte) (f : CtrlFlags) (s : State) :
    OnlyTrackerSlot s (trackerTurn addr data f s).2 := by
  by_cases h : TrackerCalled s
  · rw [trackerTurn_called h]
    exact trackerOnWaitCycle _ _ _ _
  · rw [trackerTurn_skipped h]
    exact refl s

end OnlyTrackerSlot

section
variable {s : State} (addr : Addr) (data : Byte) (f : CtrlFlags)

/-- The tracker's turn leaves the world, the counters, and the wait in progress but for the hold. -/
theorem trackerTurn_redress_self (s : State) :
    (trackerTurn addr data f s).2.redress s.eng.wait s.eng.counters s.world =
      (trackerTurn addr data f s).2 :=
  (congrArg Prod.snd (redress_trackerTurn s.eng.wait s.eng.counters s.world s addr data f)).symm

/-- The call of the tracker is its turn, and is recorded. -/
theorem callWait_tracker (h : TrackerCalled s) :
    callWait 0 addr data f s =
      ((trackerTurn addr data f s).1,
        logCall (.waitCycle 0 addr data f) (trackerTurn addr data f s).2) := by
  have hlog : logCall (.waitCycle 0 addr data f) (trackerTurn addr data f s).2 =
      (trackerTurn addr data f s).2.redress s.eng.wait s.eng.counters
        (logCall (.waitCycle 0 addr data f) s).world := by
    rw [← trackerTurn_redress_self]
    rfl
  have hcall : callWait 0 addr data f s =
      trackerOnWaitCycle addr data f (logCall (.waitCycle 0 addr data f) s) := by
    obtain ⟨⟨-, htracker, -⟩, -⟩ := h
    exact if_pos htracker
  rw [hcall, hlog, trackerTurn_called h]
  exact redress_trackerOnWaitCycle s.eng.wait s.eng.counters _ s addr data f

/-- In an `Answering` state in which the tracker is not called, every enabled socket only answers. -/
theorem Answering.scripted (ha : Answering s) (ht : ¬ TrackerCalled s) {h : Nat}
    (hh : h < s.eng.numSockets) (he : (sockAt s h).enabled = true) :
    (scriptedAnswer s h).isSome = true := by
  obtain hs | ⟨rfl, hfirst⟩ := ha h hh he
  · exact hs
  · exact absurd ⟨hfirst, he⟩ ht

theorem decisionsAt_of_skipped (ht : ¬ TrackerCalled s) :
    decisionsAt addr data f s = (handles s).map (plainDecision s) := by
  refine List.map_congr_left fun h _ => ?_
  unfold plainDecision
  split
  · rename_i he
    refine if_neg fun h0 => ht ⟨h0.2, ?_⟩
    obtain ⟨rfl, -⟩ := h0
    exact he
  · rfl

/-- Where the tracker is called it decides first. -/
theorem decisionsAt_of_called (ht : TrackerCalled s) {n : Nat} (hn : s.eng.numSockets = n + 1) :
    decisionsAt addr data f s =
      (trackerTurn addr data f s).1 :: ((List.range n).map Nat.succ).map (plainDecision s) := by
  obtain ⟨hfirst, he⟩ := ht
  have hrange : List.range s.eng.numSockets = 0 :: (List.range n).map Nat.succ := by
    rw [hn, List.range_succ_eq_map]
  unfold decisionsAt
  simp only [hrange]
  rw [List.map_cons, if_pos he, if_pos ⟨rfl, hfirst⟩, List.cons_inj_right]
  refine List.map_congr_left fun h hh => ?_
  obtain ⟨k, -, rfl⟩ := List.mem_map.mp hh
  simp [plainDecision]

/-- The fan-out of an `Answering` state: the tracker's turn, where it is called, and then replies only. -/
theorem fanOut_answering (ha : Answering s) :
    (fanOut addr data f (handles s) s).1 = decisionsAt addr data f s ∧
    OnlyReplies ((enabledHandles s).map (fun h => CallRecord.waitCycle h addr data f))
      (trackerTurn addr data f s).2 (fanOut addr data f (handles s) s).2 := by
  by_cases ht : TrackerCalled s
  · have ⟨⟨hpos, _, hhandle⟩, he⟩ := ht
    obtain ⟨n, hn⟩ := Nat.exists_eq_add_one.mpr hpos
    obtain ⟨-, -, hothers⟩ := OnlyTrackerSlot.trackerTurn addr data f s
    rw [hhandle] at hothers
    generalize hr : logCall (.waitCycle 0 addr data f) (trackerTurn addr data f s).2 = r
    have hsame : ∀ j ∈ (List.range n).map Nat.succ, sockAt r j = sockAt s j := by
      intro j hj
      obtain ⟨k, -, rfl⟩ := List.mem_map.mp hj
      rw [← hr]
      exact hothers _ (Nat.succ_ne_zero k)
    have hlogged : OnlyReplies [.waitCycle 0 addr data f] (trackerTurn addr data f s).2 r :=
      hr ▸ ⟨rfl, fun _ => rfl⟩
    have hnd : ((List.range n).map Nat.succ).Nodup :=
      List.nodup_range.map (Nat.succ_injective)
    obtain ⟨hds, hreplies⟩ := fanOut_answers addr data f hnd (s := r) fun j hj => by
      rw [scriptedAnswer_congr (hsame j hj), hsame j hj]
      obtain ⟨k, hk, rfl⟩ := List.mem_map.mp hj
      have hlt : k + 1 < s.eng.numSockets := by rw [hn]; simpa using hk
      intro hen
      obtain h1 | ⟨h1, -⟩ := ha _ hlt hen
      · exact h1
      · cases h1
    rw [List.filter_congr fun j hj => by rw [hsame j hj]] at hreplies
    rw [handles, enabledHandles, hn, List.range_succ_eq_map, fanOut_called he,
      callWait_tracker addr data f ht, hr, decisionsAt_of_called addr data f ht hn, hds]
    refine ⟨?_, ?_⟩
    · rw [List.map_congr_left fun j hj => plainDecision_congr (hsame j hj)]
    · simpa [he] using hlogged.trans hreplies
  · rw [trackerTurn_skipped ht, decisionsAt_of_skipped addr data f ht]
    exact fanOut_answers addr data f List.nodup_range fun h hh =>
      ha.scripted ht (List.mem_range.mp hh)

end

/-- Settles O20: the record of calls grows by the called sockets; an `Answering` state only replies; and the
turns are the fan-outs over the first handles. -/
theorem fanOutCallsInOrder : Obligations.FanOutCallsInOrder := by
  intro s addr data f
  refine ⟨?_, fun ha => ?_, turnState addr data f s, rfl, rfl, fun h hh => ?_⟩
  · obtain ⟨called, hsub, hcalls⟩ := fanOut_calls addr data f (handles s) s
    exact ⟨called, hsub, hcalls, by simp [handles]⟩
  · obtain ⟨hds, hreplies⟩ := fanOut_answering addr data f ha
    refine ⟨?_, hds, ?_, hreplies.kept⟩
    · rw [hreplies.calls.1, waitCalls, waitCalls, (trackerTurn_onlyEngTrk addr data f s).world]
    · rw [hreplies.frame]
      rfl
  · obtain ⟨js, hdec⟩ := fanOut_decision addr data f s hh
    refine ⟨fun he => ?_, fun he => ?_⟩
    · rw [handles, hdec, turnState_succ, fanOut_called he, fanOut_called he]
      exact ⟨rfl, rfl, (callWait_reports _ _ _ _ _).wait⟩
    · rw [handles, hdec, turnState_succ, fanOut_passed he, fanOut_passed he]
      exact ⟨rfl, rfl⟩

end Sys2Proof.Machine
end

section
/-! SUPPORT. The two halves of a service tick (41_wait_service.md R170): what the arbiter leaves where nothing
is asked of it, and the tick that sees no wait (R172). -/

namespace Sys2Proof.Machine

/-- A tick is its wait half and then its action half, and its result is Ok. -/
theorem exec_serviceTick (s : State) :
    exec .serviceTick s = .next ((tickActions (afterWait s)).answer okNone) := rfl

/-! ### The arbiter where it has nothing to do (42_bus_actions.md R212 to R214, R217) -/

section
variable {s : State}

theorem advancePending_idle (h : s.eng.act.status ≠ .asserted ∨ isPulse s.eng.act.action = false) :
    advancePending s = s := if_pos h

theorem actionTimeoutCheck_idle (h : s.eng.act.status = .none) : actionTimeoutCheck s = s := if_pos h

theorem checkPending_busy (h : s.eng.act.status ≠ .none) : checkPending s = s := if_pos h

theorem checkPending_mastered (h : s.eng.mastered = true) : checkPending s = s := by
  simp [checkPending, h]

theorem checkPending_noRequest (h : NoActions s) : checkPending s = s := by
  obtain ⟨-, hreq⟩ := h
  simp [checkPending, handles, findRequest_none fun j hj => hreq j (List.mem_range.mp hj)]

theorem startPending_idle (h : s.eng.act.status ≠ .pending) : startPending s = (okNone, s) := if_pos h

/-- With no action in progress the action half begins with the next request. -/
theorem advance_of_no_action (h : s.eng.act.status = .none) :
    actionTimeoutCheck (advancePending s) = s := by
  rw [advancePending_idle (by simp [h]), actionTimeoutCheck_idle h]

/-- While a wait is asserted no action is taken (41_wait_service.md R170). -/
theorem tickActions_of_asserted
    (h : (actionTimeoutCheck (advancePending s)).eng.wait.asserted = true) :
    tickActions s = actionTimeoutCheck (advancePending s) := by
  simp [tickActions, h]

theorem tickActions_of_released
    (h : (actionTimeoutCheck (advancePending s)).eng.wait.asserted = false) :
    tickActions s = (startPending (checkPending (actionTimeoutCheck (advancePending s)))).2 := by
  simp [tickActions, h]

/-- Where nothing is in progress or asked for, the action half does nothing. -/
theorem tickActions_noActions (h : NoActions s) : tickActions s = s := by
  have hnone : s.eng.act.status = .none := h.1
  have hadv := advance_of_no_action hnone
  cases hw : s.eng.wait.asserted with
  | true => rw [tickActions_of_asserted (by rw [hadv, hw]), hadv]
  | false =>
    rw [tickActions_of_released (by rw [hadv, hw]), hadv, checkPending_noRequest h,
      startPending_idle (by simp [hnone])]

end

/-! ### The port -/

theorem portStable (p : Port) : CallbackStable (fun u => u.port = p) where
  move hs h := by
    obtain ⟨-, -, -, -, hport⟩ := h.block
    exact hport.trans hs
  trk _ hs _ := hs
  bp _ hs _ _ := hs
  flags h f hs _ := by rwa [changeSocket_frame]
  slot _ _ hs _ := hs

@[simp] theorem awaitBusack_port (s : State) : (awaitBusack s).2.port = s.port := by
  obtain ⟨-, -, -, -, hport⟩ := (awaitBusack_worldMove s).block
  exact hport

theorem requestAndTake_port (s : State) : (requestAndTake s).2.port = s.port := by
  obtain h | ⟨-, -, h | h⟩ := requestAndTake_cases s <;> rw [h]
  · exact awaitBusack_port s
  · rw [deassertLine_port, awaitBusack_port]

/-- No callback writes the port. -/
@[simp] theorem notifyAll_port (a : BusAction) (reason : Byte) (o : ActOutcome) (s : State) :
    (notifyAll a reason o s).port = s.port :=
  (portStable s.port).notifyAll rfl (fun _ _ => transferStable_of_mastership
    (P := fun u : State => u.port = s.port) (fun u hu => (requestAndTake_port u).trans hu)
    (fun _ hu => hu)) reason

@[simp] theorem advancePending_port (s : State) : (advancePending s).port = s.port := by
  obtain h | h | ⟨-, -, h⟩ := advancePending_cases s <;> rw [h]
  · exact now_port s
  · simp [clearAction, setAct]

@[simp] theorem actionTimeoutCheck_port (s : State) : (actionTimeoutCheck s).port = s.port := by
  obtain h | h | ⟨-, h⟩ | ⟨-, h⟩ := actionTimeoutCheck_cases s <;> rw [h] <;> simp [clearAction, setAct]

@[simp] theorem checkPending_port (s : State) : (checkPending s).port = s.port := by
  obtain h | ⟨-, -, _, _, _, _, -, -, h⟩ := checkPending_cases s <;> rw [h]
  simp [setAct]

@[simp] theorem startPending_port (s : State) : (startPending s).2.port = s.port := by
  obtain h | ⟨-, -, _, h⟩ | ⟨-, -, h⟩ := startPending_cases s <;> rw [h]
  · simp [assertPulse, setAct]
  · obtain h | h := busRequestHandshake_cases s <;> rw [h] <;>
      simp [releaseMastership_frame, takeMastership_frame, clearAction, setAct]

theorem portWaitBlind (p : Port) : WaitBlind (fun u => u.port = p) where
  toCallbackStable := portStable p
  anyWorld _ hs := hs
  wait _ _ hs _ := hs

theorem afterWait_port (s : State) : (afterWait s).port = s.port :=
  (portWaitBlind s.port).tickWait ((portWaitBlind s.port).diagEvents rfl)

theorem tickActions_port (s : State) : (tickActions s).port = s.port := by
  unfold tickActions
  simp only
  split <;> simp

/-- A tick writes the port only by its answer. -/
theorem serviceTick_port (s : State) :
    ((tickActions (afterWait s)).answer okNone).port = { s.port with result := okNone } := by
  rw [← afterWait_port s, ← tickActions_port (afterWait s)]
  rfl

/-- What is asked of the arbiter is read from the action and from the sockets' requests. -/
theorem NoActions.congr {s t : State} (h : NoActions s) (hact : t.eng.act = s.eng.act)
    (hnum : t.eng.numSockets = s.eng.numSockets)
    (hreq : ∀ j, (sockAt t j).actionRequest = (sockAt s j).actionRequest ∧
      (sockAt t j).busMasterRequest = (sockAt s j).busMasterRequest) : NoActions t := by
  obtain ⟨hnone, hsock⟩ := h
  refine ⟨hact ▸ hnone, fun j hj => ?_⟩
  rw [(hreq j).1, (hreq j).2]
  exact hsock j (hnum ▸ hj)

/-- A reply taken from a script leaves the socket's requests. -/
theorem SocketsKept.requests {s t : State} (h : SocketsKept s t) (j : Nat) :
    (sockAt t j).actionRequest = (sockAt s j).actionRequest ∧
      (sockAt t j).busMasterRequest = (sockAt s j).busMasterRequest := by
  rw [← h j]
  exact ⟨rfl, rfl⟩

/-! ### The diagnostic events (41_wait_service.md R186) -/

/-- The three diagnostic counters grown by `d`. -/
def Counters.addDiag (d : Word32 × Word32 × Word32) (c : Counters) : Counters :=
  { c with
    diagSpuriousBusrq := c.diagSpuriousBusrq + d.1
    diagIrqDuringBusack := c.diagIrqDuringBusack + d.2.1
    diagIrqWithoutWait := c.diagIrqWithoutWait + d.2.2 }

@[simp] theorem addDiag_noDiag (d : Word32 × Word32 × Word32) (c : Counters) :
    (c.addDiag d).noDiag = c.noDiag := rfl

/-- The diagnostic events of a tick write the counters and take draws. -/
theorem diagEvents_redress (s : State) :
    ∃ (d : Word32 × Word32 × Word32) (v : World),
      diagEvents s = s.redress s.eng.wait (s.eng.counters.addDiag d) v ∧
      { v with draws := s.world.draws, diagDraws := s.world.diagDraws } = s.world :=
  diagEvents_cases s

/-! ### No wait (41_wait_service.md R172) -/

/-- The tick has taken draws and counted diagnostic events, and nothing else has happened. -/
structure OnlyDiag (s u : State) : Prop where
  engine : { u.eng with counters := s.eng.counters } = s.eng
  counters : u.eng.counters.noDiag = s.eng.counters.noDiag
  trk : u.trk = s.trk
  bp : u.bp = s.bp
  cfg : u.cfg = s.cfg
  port : u.port = s.port
  world : { u.world with
    draws := s.world.draws, busackDraws := s.world.busackDraws, diagDraws := s.world.diagDraws } = s.world

theorem diagEvents_onlyDiag (s : State) : OnlyDiag s (diagEvents s) := by
  obtain ⟨d, v, h, hv⟩ := diagEvents_redress s
  rw [h]
  exact ⟨rfl, rfl, rfl, rfl, rfl, rfl,
    congrArg (fun w : World => { w with busackDraws := s.world.busackDraws }) hv⟩

theorem OnlyDiag.sampleBusack {s u : State} (h : OnlyDiag s u) : OnlyDiag s (sampleBusack u).2 := by
  obtain ⟨hengine, hcounters, htrk, hbp, hcfg, hport, hworld⟩ := h
  unfold Machine.sampleBusack
  split <;> exact ⟨hengine, hcounters, htrk, hbp, hcfg, hport, hworld⟩

theorem diagEvents_world (s : State) : (diagEvents s).world = (drawDiag s).2.world := rfl

@[simp] theorem diagEvents_present (s : State) : (diagEvents s).world.present = s.world.present := by
  rw [diagEvents_world, drawDiag_present]

@[simp] theorem diagEvents_busackDraws (s : State) :
    (diagEvents s).world.busackDraws = s.world.busackDraws := by
  rw [diagEvents_world, drawDiag_busackDraws]

@[simp] theorem diagEvents_wait (s : State) : (diagEvents s).eng.wait = s.eng.wait :=
  (congrArg Engine.wait (diagEvents_onlyDiag s).engine :)

/-- A tick that finds no wait asserted looks for one. -/
theorem afterWait_of_released {s : State} (ha : s.eng.wait.asserted = false) :
    afterWait s = waitDetect (diagEvents s) := by
  simp [afterWait, tickWait, ha]

/-- A tick that sees no wait, or BUSACK with it, leaves everything but draws and diagnostic counters. -/
theorem afterWait_undetected {s : State} (ha : s.eng.wait.asserted = false)
    (h : s.world.present = none ∨ s.world.busackDraws.head? = some true) :
    OnlyDiag s (afterWait s) := by
  rw [afterWait_of_released ha, waitDetect_undetected (by simpa using h)]
  exact (diagEvents_onlyDiag s).sampleBusack

theorem OnlyDiag.noActions {s u : State} (h : OnlyDiag s u) (hno : NoActions s) : NoActions u := by
  have hsock : u.eng.sock = s.eng.sock := (congrArg Engine.sock h.engine :)
  exact hno.congr (congrArg Engine.act h.engine :) (congrArg Engine.numSockets h.engine :) fun j => by
    rw [sockAt_congr hsock]
    exact ⟨rfl, rfl⟩

/-- Settles O18: nothing is detected, and nothing is asked of the arbiter. -/
theorem idleTickChangesNothing : Obligations.IdleTickChangesNothing := by
  intro s ha hdetect hno
  have hdiag := afterWait_undetected ha hdetect
  refine ⟨_, exec_serviceTick s, ?_⟩
  rw [tickActions_noActions (hdiag.noActions hno)]
  exact ⟨congrArg (fun p : Port => { p with result := okNone }) hdiag.port, hdiag.engine, hdiag.counters,
    hdiag.trk, hdiag.bp, hdiag.cfg, hdiag.world⟩

end Sys2Proof.Machine
end

section
/-! SUPPORT. The end of a cycle in a wait (20_memory.md R86, R87, 41_wait_service.md R178 to R180): what the
release gives the Z80 and memory, and the two ticks that end a wait without calling a socket, that of a
cycle whose hold is dropped (R171) and that of one that never settles (R174). -/

namespace Sys2Proof.Machine

/-! ### The end of a bus cycle -/

/-- The same memory, I/O writes, delivered byte and Z80. -/
structure SameBus (v w : World) : Prop where
  mem : w.mem = v.mem
  ioWrites : w.ioWrites = v.ioWrites
  delivered : w.delivered = v.delivered
  z80 : w.z80 = v.z80

theorem SameBus.refl (v : World) : SameBus v v := ⟨rfl, rfl, rfl, rfl⟩

theorem SameBus.trans {u v w : World} (h : SameBus u v) (g : SameBus v w) : SameBus u w :=
  ⟨g.mem.trans h.mem, g.ioWrites.trans h.ioWrites, g.delivered.trans h.delivered, g.z80.trans h.z80⟩

/-- What the bus shows does not depend on the cycle that is presented. -/
theorem SameBus.presenting {v w : World} (h : SameBus v w) (p : Option Presented) :
    SameBus v { w with present := p } := ⟨h.mem, h.ioWrites, h.delivered, h.z80⟩

/-- How a cycle ends is read from the bus alone. -/
theorem CycleEnds.of_sameBus {c : Presented} {p : Bool} {s s' t t' : State} (h : CycleEnds c p s t)
    (hs : SameBus s'.world s.world) (ht : SameBus t.world t'.world) : CycleEnds c p s' t' := by
  simpa only [CycleEnds, memRead, hs.mem, hs.ioWrites, hs.delivered, hs.z80, ht.mem, ht.ioWrites,
    ht.delivered, ht.z80] using h

/-- The end of a cycle, for the Z80 whose cycle it is. -/
theorem z80Step_if (own : Bool) (f : Z80 → Z80) (s : State) :
    ∃ free d, (if own then z80Step f s else s) = s.withWorld { s.world with
      z80 := if own then (z80Retire free (f s.world.z80)).2 else s.world.z80, draws := d } := by
  cases own with
  | false => exact ⟨0, s.world.draws, rfl⟩
  | true =>
    simp only [if_true, z80Step]
    split
    · rename_i z hz
      exact ⟨_, s.world.draws + 1, by rw [hz]⟩
    · rename_i z hz
      exact ⟨_, s.world.draws, by rw [hz]⟩

theorem drawByte_cases (s : State) :
    ∃ b d bs, drawByte s = (b, s.withWorld { s.world with draws := d, byteDraws := bs }) := by
  unfold drawByte
  split
  · exact ⟨_, s.world.draws, _, rfl⟩
  · exact ⟨_, s.world.draws + 1, s.world.byteDraws, rfl⟩

/-- The byte that the Z80 receives: the engine's, else memory's where it is a memory read that is not paged
out; and that a draw may be taken for it. -/
theorem received_cases (driven : Option Byte) (c : Presented) (s : State) :
    ∃ b d bs, received driven c s = (b, s.withWorld { s.world with draws := d, byteDraws := bs }) ∧
      (∀ x, driven = some x → b = x) ∧
      (driven = none → isMemRead (sixFlags c.flags) = true → s.trk.pageOut = false →
        b = memRead c.addr s) := by
  unfold received
  cases driven with
  | some x => exact ⟨x, _, _, rfl, fun _ h => Option.some.inj h, nofun⟩
  | none =>
    simp only
    split
    · exact ⟨_, _, _, rfl, nofun, fun _ _ _ => rfl⟩
    · rename_i h
      obtain ⟨b, d, bs, hdraw⟩ := drawByte_cases s
      exact ⟨b, d, bs, hdraw, nofun, fun _ hr hp => absurd (by simp [hr, hp]) h⟩

/-- What the release of the wait of cycle `c` does, where the engine drives `driven`. -/
structure CycleReleased (driven : Option Byte) (c : Presented) (s t : State) : Prop where
  block : SameBlock s t
  ends : CycleEnds c s.trk.pageOut s t
  present : t.world.present = none
  calls : t.world.calls = s.world.calls
  clock : t.world.clock = s.world.clock
  timeDraws : t.world.timeDraws = s.world.timeDraws
  byte : ∀ b, driven = some b → isRead (sixFlags c.flags) = true → t.world.delivered = some b
  memory : driven = none → isMemRead (sixFlags c.flags) = true → s.trk.pageOut = false →
    t.world.delivered = some (memRead c.addr s)

/-- The three ends of a bus cycle are of different cycles (30_encoding.md R101). -/
theorem read_disjoint {f : CtrlFlags} :
    (isMemRead f = true → isRead f = true) ∧
    (isRead f = true → isMemWrite f = false ∧ (isIo f && isWrite f) = false) ∧
    (isMemWrite f = true → isRead f = false ∧ (isIo f && isWrite f) = false) := by
  simp only [isMemRead, isMemWrite, isIrqAck, isIo, isRead, isWrite, isMem]
  cases flagRd f <;> cases flagWr f <;> cases flagMreq f <;> cases flagIorq f <;> cases flagM1 f <;>
    decide

/-- A write reaches memory unless memory is paged out (20_memory.md R87). -/
theorem store_unless_paged (a : Addr) (b : Byte) (s : State) :
    (if s.trk.pageOut then s else memWrite a b s) = s.withWorld { s.world with
      mem := if s.trk.pageOut then s.world.mem else Memory.write s.world.mem a b } := by
  split <;> rfl

section
variable {s : State} {c : Presented} (driven : Option Byte)

theorem releaseWait_read (hp : s.world.present = some c) (hr : isRead (sixFlags c.flags) = true) :
    CycleReleased driven c s (releaseWait driven s) := by
  obtain ⟨-, hread, -⟩ := read_disjoint (f := sixFlags c.flags)
  obtain ⟨hw, hio⟩ := hread hr
  obtain ⟨b, d, bs, hrec, hbyte, hmem⟩ :=
    received_cases driven c (s.withWorld { s.world with present := none })
  obtain ⟨free, d', hz⟩ := z80Step_if c.byZ80 (z80Take b) (s.withWorld { s.world with
    present := none, draws := d, byteDraws := bs })
  have hend : releaseWait driven s = s.withWorld { s.world with
      present := none, delivered := some b, draws := d', byteDraws := bs
      z80 := if c.byZ80 then (z80Retire free (z80Take b s.world.z80)).2 else s.world.z80 } := by
    simp only [releaseWait, hp, completeCycle, hr, if_true, hrec]
    exact congrArg (fun u : State => u.withWorld { u.world with delivered := some b }) hz
  rw [hend]
  refine ⟨withWorld_sameBlock _ _, ⟨?_, ?_, ?_, ?_, ?_, ?_⟩, rfl, rfl, rfl, rfl, ?_, ?_⟩
  · simp [hw, memRead]
  · simp [hio]
  · simp [hr]
  · exact fun _ => ⟨b, free, rfl, rfl⟩
  · simp [hw]
  · simp [hr]
  · exact fun x hx _ => congrArg some (hbyte x hx)
  · exact fun hn hm hpage => congrArg some (hmem hn hm hpage)

theorem releaseWait_memWrite (hp : s.world.present = some c) (hm : MemoryOk s)
    (hw : isMemWrite (sixFlags c.flags) = true) :
    CycleReleased driven c s (releaseWait driven s) := by
  obtain ⟨hmr, -, hwrite⟩ := read_disjoint (f := sixFlags c.flags)
  obtain ⟨hr, hio⟩ := hwrite hw
  obtain ⟨free, d, hz⟩ := z80Step_if c.byZ80 z80Wrote (s.withWorld { s.world with
    present := none
    mem := if s.trk.pageOut then s.world.mem else Memory.write s.world.mem c.addr c.data })
  have hend : releaseWait driven s = s.withWorld { s.world with
      present := none, draws := d
      mem := if s.trk.pageOut then s.world.mem else Memory.write s.world.mem c.addr c.data
      z80 := if c.byZ80 then (z80Retire free (z80Wrote s.world.z80)).2 else s.world.z80 } := by
    refine Eq.trans ?_ hz
    simp only [releaseWait, hp, completeCycle, hr, hw, if_true, Bool.false_eq_true, if_false,
      store_unless_paged]
    rfl
  rw [hend]
  refine ⟨withWorld_sameBlock _ _, ⟨fun a => ?_, ?_, ?_, ?_, ?_, ?_⟩, rfl, rfl, rfl, rfl, ?_, ?_⟩
  · obtain ⟨hwf, -⟩ := hm
    cases hpage : s.trk.pageOut with
    | true => simp [memRead]
    | false =>
      by_cases ha : a = c.addr
      · subst ha
        simp [memRead, hw, Memory.read_write_self hwf]
      · simp [memRead, ha]
  · simp [hio]
  · simp
  · simp [hr]
  · exact fun _ => ⟨free, rfl⟩
  · simp [hw]
  · simp [hr]
  · exact fun _ h => absurd (hmr h) (by simp [hr])

/-- Every other cycle leaves memory and the Z80; an I/O write is recorded. -/
theorem releaseWait_other (hp : s.world.present = some c) (hr : isRead (sixFlags c.flags) = false)
    (hw : isMemWrite (sixFlags c.flags) = false) :
    CycleReleased driven c s (releaseWait driven s) := by
  obtain ⟨hmr, -, -⟩ := read_disjoint (f := sixFlags c.flags)
  have hend : releaseWait driven s = s.withWorld { s.world with
      present := none
      ioWrites := if isIo (sixFlags c.flags) && isWrite (sixFlags c.flags) then
        (c.addr, c.data) :: s.world.ioWrites else s.world.ioWrites } := by
    simp only [releaseWait, hp, completeCycle, hr, hw, Bool.false_eq_true, if_false]
    cases isIo (sixFlags c.flags) && isWrite (sixFlags c.flags) <;> rfl
  rw [hend]
  refine ⟨withWorld_sameBlock _ _, ⟨?_, rfl, ?_, ?_, ?_, ?_⟩, rfl, rfl, rfl, rfl, ?_, ?_⟩
  · simp [hw, memRead]
  · simp
  · simp [hr]
  · simp [hw]
  · simp
  · simp [hr]
  · exact fun _ h => absurd (hmr h) (by simp [hr])

/-- The release of a wait ends the presented cycle (41_wait_service.md R180). -/
theorem releaseWait_releases (hp : s.world.present = some c) (hm : MemoryOk s) :
    CycleReleased driven c s (releaseWait driven s) := by
  cases hr : isRead (sixFlags c.flags) with
  | true => exact releaseWait_read driven hp hr
  | false =>
    cases hw : isMemWrite (sixFlags c.flags) with
    | true => exact releaseWait_memWrite driven hp hm hw
    | false => exact releaseWait_other driven hp hr hw

end

/-! ### The end of a serviced cycle -/

/-- What `complete_cycle()` does to the cycle `c`, where the next growth of time is `g` (41_wait_service.md
R179, R181). -/
structure CycleServiced (c : Presented) (g : Nat) (gs : List Nat) (s t : State) : Prop where
  engine : t.eng = { s.eng with
    wait := { s.eng.wait with
      asserted := false, held := false, cycleLength := s.world.clock + g - s.eng.wait.assertedAt }
    counters := countCycle s.eng.wait.cur.flags (s.world.clock + g - s.eng.wait.assertedAt)
      s.eng.counters }
  trk : t.trk = s.trk
  bp : t.bp = s.bp
  cfg : t.cfg = s.cfg
  port : t.port = s.port
  ends : CycleEnds c s.trk.pageOut s t
  present : t.world.present = none
  calls : t.world.calls = s.world.calls
  clock : t.world.clock = s.world.clock + g
  timeDraws : t.world.timeDraws = gs
  byte : ∀ b, drivenByte s.eng.wait.cur = some b → isRead (sixFlags c.flags) = true →
    t.world.delivered = some b
  memory : drivenByte s.eng.wait.cur = none → isMemRead (sixFlags c.flags) = true →
    s.trk.pageOut = false → t.world.delivered = some (memRead c.addr s)

theorem completeServiced_services {s : State} {c : Presented} {g : Nat} {gs : List Nat}
    (hp : s.world.present = some c) (hm : MemoryOk s) (ht : s.world.timeDraws = g :: gs) :
    CycleServiced c g gs s (completeServiced s) := by
  obtain ⟨⟨hcfg, heng, htrk, hbp, hport⟩, hends, hnone, hcalls, hclock, htime, hbyte, hmemory⟩ :=
    releaseWait_releases (drivenByte s.eng.wait.cur) hp hm
  unfold completeServiced
  simp only
  generalize releaseWait (drivenByte s.eng.wait.cur) s = r at *
  rw [now_listed (s := setWaitState { r.eng.wait with asserted := false, held := false } r)
    (htime.trans ht)]
  refine ⟨?_, htrk, hbp, hcfg, hport, hends.of_sameBus (.refl _) ⟨rfl, rfl, rfl, rfl⟩, hnone, hcalls,
    ?_, rfl, hbyte, hmemory⟩
  · simp [setWaitState, heng, hclock]
  · simp [setWaitState, hclock]

/-- A decision that supplies no byte leaves the bus undriven. -/
theorem drivenByte_notDecoded {r : CycleRecord} (h : r.merged = .notDecoded) : drivenByte r = none := by
  unfold drivenByte
  rw [h]
  split <;> rfl

theorem drivenByte_of_read {r : CycleRecord} {b : Byte} (hr : isRead r.flags = true)
    (hb : byteOfDecision r.merged = some b) : drivenByte r = some b := by
  rw [drivenByte, if_pos hr, hb]

/-! ### A held cycle (41_wait_service.md R171) -/

/-- A world that differs in the diagnostic draws. -/
theorem sameBus_of_diagDraws {v w : World}
    (h : { w with draws := v.draws, diagDraws := v.diagDraws } = v) :
    SameBus v w ∧ w.calls = v.calls ∧ w.clock = v.clock ∧ w.timeDraws = v.timeDraws ∧
      w.present = v.present ∧ w.busackDraws = v.busackDraws :=
  ⟨⟨(congrArg World.mem h :), (congrArg World.ioWrites h :), (congrArg World.delivered h :),
    (congrArg World.z80 h :)⟩, (congrArg World.calls h :), (congrArg World.clock h :),
    (congrArg World.timeDraws h :), (congrArg World.present h :), (congrArg World.busackDraws h :)⟩

/-- A tick whose held cycle has no hold any more completes it. -/
theorem afterWait_of_dropped {s : State} (ha : s.eng.wait.asserted = true)
    (hh : s.eng.wait.held = true) (hd : s.eng.wait.hold = false) :
    afterWait s = completeServiced (diagEvents s) := by
  simp [afterWait, tickWait, ha, hh, hd]

/-- Settles O15: the tick is `complete_cycle()` on the held cycle. -/
theorem heldCycleCompletes : Obligations.HeldCycleCompletes := by
  intro s c g gs hm ha hh hd hp ht
  obtain ⟨d, v, hdiag, hv⟩ := diagEvents_redress s
  obtain ⟨hbus, hcalls, hclock, htime, hpres, -⟩ := sameBus_of_diagDraws hv
  have hdone := completeServiced_services (s := diagEvents s) (c := c) (g := g) (gs := gs)
    (by simpa using hp) hm.diagEvents (by rw [hdiag, redress_world, htime, ht])
  rw [← afterWait_of_dropped ha hh hd, hdiag] at hdone
  obtain ⟨hengine, htrk, hbp, hcfg, -, hends, hnone, hcalls', -, -, hbyte, hmemory⟩ := hdone
  rw [redress_world, hclock] at hengine
  have hreports : SameReports s (afterWait s) := .of_calls (hcalls'.trans hcalls)
  refine ⟨_, _, exec_serviceTick s, serviceTick_port s, rfl, fun hno => ?_, hreports.wait, hreports.done, ?_, hnone,
    fun b hr hrc hb => hbyte b (drivenByte_of_read hr hb) hrc, fun hmr hpage hnot => ?_,
    hends.of_sameBus hbus (.refl _), ?_, ?_, htrk, hbp, hcfg⟩
  · rw [tickActions_noActions]
    exact hno.congr (by rw [hengine]; rfl) (by rw [hengine]; rfl) fun j => by
      rw [sockAt_congr (s := s) (by rw [hengine]; rfl)]
      exact ⟨rfl, rfl⟩
  · rw [hengine]; rfl
  · rw [hmemory (drivenByte_notDecoded hnot) hmr hpage, memRead, memRead, redress_world, hbus.mem]
  · rw [hengine, countCycle_noDiag, countCycle_noDiag]; rfl
  · rw [hengine]; rfl

/-! ### A wait that is detected (41_wait_service.md R172) -/

/-- A world that differs in time and draws. -/
def OnlyDraws (v w : World) : Prop :=
  { w with
    clock := v.clock, draws := v.draws, timeDraws := v.timeDraws, busackDraws := v.busackDraws
    byteDraws := v.byteDraws, diagDraws := v.diagDraws } = v

theorem OnlyDraws.sameBus {v w : World} (h : OnlyDraws v w) : SameBus v w :=
  ⟨(congrArg World.mem h :), (congrArg World.ioWrites h :), (congrArg World.delivered h :),
    (congrArg World.z80 h :)⟩

theorem OnlyDraws.calls {v w : World} (h : OnlyDraws v w) : w.calls = v.calls :=
  (congrArg World.calls h :)

theorem OnlyDraws.present {v w : World} (h : OnlyDraws v w) : w.present = v.present :=
  (congrArg World.present h :)

/-- The wait that the detect step latches at time `t`. -/
def WaitState.latched (t : Nat) (w : WaitState) : WaitState :=
  { w with asserted := true, assertedAt := t }

/-- The time is read from the world alone. -/
theorem now_withEng (e : Engine) (s : State) :
    now (s.withEng e) = ((now s).1, (now s).2.withEng e) := by
  cases h : s.world.timeDraws <;> simp only [now, State.withEng_world, h] <;> rfl

/-- The detect step latches a wait with the time now, and the wait is decoded. -/
theorem waitDetect_detected {s : State} {c : Presented} {bs : List Bool} (hp : s.world.present = some c)
    (hb : s.world.busackDraws = false :: bs) {v : World}
    (hv : v = (now (s.withWorld { s.world with busackDraws := bs })).2.world) :
    waitDetect s = decodeAndDispatch (s.redress (s.eng.wait.latched v.clock) s.eng.counters v) := by
  have hwait : (sampleWait s && !false) = true := by simp [sampleWait, hp]
  have hnow := (now_worldMove (s.withWorld { s.world with busackDraws := bs })).block.eq_withWorld
  rw [waitDetect, sampleBusack_listed hb]
  refine (if_pos hwait).trans ?_
  rw [setWaitState, now_withEng, ← now_clock, hnow, ← hv]
  rfl

/-- The tick that detects a wait latches it and decodes it. -/
theorem afterWait_detected {s : State} {c : Presented} (ha : s.eng.wait.asserted = false)
    (hp : s.world.present = some c) (hb : s.world.busackDraws.head? = some false) :
    ∃ d v, afterWait s = decodeAndDispatch
        (s.redress (s.eng.wait.latched v.clock) (s.eng.counters.addDiag d) v) ∧
      OnlyDraws s.world v ∧
      ∀ g gs, s.world.timeDraws = g :: gs → v.clock = s.world.clock + g ∧ v.timeDraws = gs := by
  obtain ⟨d, v, hdiag, hv⟩ := diagEvents_redress s
  obtain ⟨-, -, hclock, htime, hpres, hack⟩ := sameBus_of_diagDraws hv
  obtain ⟨bs, hbs⟩ : ∃ bs, s.world.busackDraws = false :: bs := by
    cases h : s.world.busackDraws with
    | nil => simp [h] at hb
    | cons b bs => exact ⟨bs, by simp_all⟩
  generalize hy : (diagEvents s).withWorld { (diagEvents s).world with busackDraws := bs } = y
  have hyworld : y.world = { v with busackDraws := bs } := by rw [← hy, hdiag]; rfl
  refine ⟨d, (now y).2.world, ?_, ?_, fun g gs hg => ?_⟩
  · rw [afterWait_of_released ha, waitDetect_detected (by simpa using hp) (by simpa using hbs) rfl, hy,
      hdiag]
    rfl
  · have hdraws := congrArg (fun u : World => { u with
      clock := s.world.clock, timeDraws := s.world.timeDraws, busackDraws := s.world.busackDraws
      byteDraws := s.world.byteDraws }) hv
    obtain ⟨g, gs, -, -, h⟩ | ⟨-, g, -, h⟩ := now_cases y <;> rw [h, hyworld] <;> exact hdraws
  · rw [now_listed (s := y) (by rw [hyworld]; exact htime.trans hg), hyworld]
    exact ⟨congrArg (· + g) hclock, rfl⟩

/-! ### A cycle that never settles (41_wait_service.md R174) -/

/-- What `decode_timeout()` does to the cycle `c`. -/
structure CycleDropped (c : Presented) (s t : State) : Prop where
  engine : t.eng = { s.eng with
    wait := { s.eng.wait with asserted := false }
    counters := { s.eng.counters with decodeTimeout := s.eng.counters.decodeTimeout + 1 } }
  trk : t.trk = s.trk
  bp : t.bp = s.bp
  cfg : t.cfg = s.cfg
  ends : CycleEnds c s.trk.pageOut s t
  present : t.world.present = none
  calls : t.world.calls = s.world.calls
  clock : t.world.clock = s.world.clock
  memory : isMemRead (sixFlags c.flags) = true → s.trk.pageOut = false →
    t.world.delivered = some (memRead c.addr s)

theorem decodeTimeout_drops {s : State} {c : Presented} (hp : s.world.present = some c)
    (hm : MemoryOk s) : CycleDropped c s (decodeTimeout s) := by
  obtain ⟨⟨hcfg, heng, htrk, hbp, -⟩, hends, hnone, hcalls, hclock, -, -, hmemory⟩ :=
    releaseWait_releases none (s := s.withEng { s.eng with counters := { s.eng.counters with
      decodeTimeout := s.eng.counters.decodeTimeout + 1 } }) hp hm
  unfold decodeTimeout
  simp only
  generalize releaseWait none _ = r at *
  refine ⟨?_, htrk, hbp, hcfg, hends, hnone, hcalls, hclock, hmemory rfl⟩
  rw [setWaitState, State.withEng_eng, heng]
  rfl

/-- Settles O17: the settle loop gives up, and the tick is `decode_timeout()`. -/
theorem settleTimeoutReleases : Obligations.SettleTimeoutReleases := by
  intro s c hm ha hp hb hc
  obtain ⟨d, v, htick, hdraws, -⟩ := afterWait_detected ha hp hb
  generalize hx : s.redress (s.eng.wait.latched v.clock) (s.eng.counters.addDiag d) v = x at htick
  have hpx : x.world.present = some c := by rw [← hx]; exact hdraws.present.trans hp
  obtain ⟨fs, hloop⟩ := settleLoop_gives_up (n := s.cfg.settleRetries) hpx hc
  have hcfgx : x.cfg = s.cfg := by rw [← hx]; rfl
  rw [decodeAndDispatch, hcfgx, hloop] at htick
  have hdrop := decodeTimeout_drops (c := { c with settle := fs })
    (s := x.withWorld { x.world with present := some { c with settle := fs } }) rfl
    (hm.of_eq (by rw [← hx]; exact hdraws.sameBus.mem) (by rw [← hx]; rfl))
  replace htick : afterWait s = decodeTimeout (x.withWorld { x.world with
    present := some { c with settle := fs } }) := htick
  rw [← htick, ← hx] at hdrop
  obtain ⟨hengine, htrk, hbp, hcfg, hends, hnone, hcalls, hclock, hmemory⟩ := hdrop
  have hreports : SameReports s (afterWait s) := .of_calls (hcalls.trans hdraws.calls)
  refine ⟨_, _, exec_serviceTick s, serviceTick_port s, rfl, fun hno => ?_, hreports.wait,
    hreports.done, hnone, by rw [hengine]; rfl, fun hr hpage => ?_,
    hends.of_sameBus (hdraws.sameBus.presenting _) (.refl _), ?_, by rw [hengine]; rfl, htrk, hbp, hcfg⟩
  · rw [tickActions_noActions]
    exact hno.congr (by rw [hengine]; rfl) (by rw [hengine]; rfl) fun j => by
      rw [sockAt_congr (s := s) (by rw [hengine]; rfl)]
      exact ⟨rfl, rfl⟩
  · rw [hmemory hr hpage]
    exact congrArg (fun m => some (Memory.read m c.addr)) hdraws.sameBus.mem
  · rw [hengine, hclock]; rfl

end Sys2Proof.Machine
end

section
/-! SUPPORT. The tick that decodes a fresh wait (41_wait_service.md R173 to R177): what it samples, the calls it
makes, and that it then holds the cycle or completes it. -/

namespace Sys2Proof.Machine

/-! ### The flags shown (41_wait_service.md R175) -/

theorem setM1_self : ∀ f : CtrlFlags, setM1 f (flagM1 f) = f := by decide

theorem setWait_flags : ∀ f : CtrlFlags, flagRd (setWait f) = flagRd f ∧ flagWr (setWait f) = flagWr f ∧
    flagMreq (setWait f) = flagMreq f ∧ flagIorq (setWait f) = flagIorq f ∧
    flagM1 (setWait f) = flagM1 f := by decide

/-- WAIT is in no class of cycles (30_encoding.md R101). -/
theorem shownFlags_classes (f : CtrlFlags) :
    isRead (shownFlags f) = isRead (sixFlags f) ∧ isWrite (shownFlags f) = isWrite (sixFlags f) ∧
    isMemRead (shownFlags f) = isMemRead (sixFlags f) ∧
    isMemWrite (shownFlags f) = isMemWrite (sixFlags f) ∧
    isIrqAck (shownFlags f) = isIrqAck (sixFlags f) ∧ isIo (shownFlags f) = isIo (sixFlags f) := by
  obtain ⟨hrd, hwr, hmreq, hiorq, hm1⟩ := setWait_flags (sixFlags f)
  have hshown : shownFlags f = setWait (sixFlags f) := rfl
  simp only [hshown, isRead, isWrite, isMemRead, isMemWrite, isIrqAck, isIo, isMem, hrd, hwr, hmreq,
    hiorq, hm1, and_self]

/-- A cycle is counted the same with WAIT shown. -/
theorem countCycle_shownFlags (f : CtrlFlags) (len : Nat) (c : Counters) :
    countCycle (shownFlags f) len c = countCycle (sixFlags f) len c := by
  obtain ⟨hr, hw, hmr, hmw, hack, hio⟩ := shownFlags_classes f
  simp only [countCycle_eq, countCategory, hr, hw, hmr, hmw, hack, hio]

/-! ### The samples of a settled cycle -/

/-- The data sampled: on a write the byte written, on a memory read that is not paged out memory's; a draw
may be taken for it (20_memory.md R85). -/
theorem sampleData_cases {s : State} {c : Presented} (hp : s.world.present = some c) :
    ∃ data d bs, sampleData s = (data, s.withWorld { s.world with draws := d, byteDraws := bs }) ∧
      (isRead (sixFlags c.flags) = false → data = c.data) ∧
      (isMemRead (sixFlags c.flags) = true → s.trk.pageOut = false → data = memRead c.addr s) := by
  obtain ⟨hmr, -, -⟩ := read_disjoint (f := sixFlags c.flags)
  obtain ⟨b, d, bs, hrec, -, hmem⟩ := received_cases none c s
  cases hr : isRead (sixFlags c.flags) with
  | true =>
    refine ⟨b, d, bs, ?_, nofun, hmem rfl⟩
    rw [← hrec]
    simp [sampleData, hp, hr, received]
  | false =>
    have hself : sampleData s = (c.data, s) := by simp [sampleData, hp, hr]
    exact ⟨c.data, s.world.draws, s.world.byteDraws, hself, fun _ => rfl,
      fun h => absurd (hmr h) (by simp [hr])⟩

theorem redress_decisionsAt (addr : Addr) (data : Byte) (f : CtrlFlags) (w : WaitState) (k : Counters)
    (v : World) (s : State) :
    decisionsAt addr data f (s.redress w k v) = decisionsAt addr data f s := by
  have hturn := congrArg Prod.fst (redress_trackerTurn w k v s addr data f)
  unfold decisionsAt
  rw [hturn]
  rfl

/-! ### The cycle decoded and shown to the sockets -/

/-- The tracker's turn in the cycle `c` with sampled `data`. -/
abbrev cycleTurn (c : Presented) (data : Byte) (s : State) : Decision × State :=
  trackerTurn c.addr data (shownFlags c.flags) s

/-- The record of the cycle `c` with sampled `data`. -/
def cycleRecord (c : Presented) (data : Byte) (s : State) : CycleRecord :=
  { addr := c.addr, data := data, flags := shownFlags c.flags
    merged := mergeDecisions (decisionsAt c.addr data (shownFlags c.flags) s) }

/-- From `s` the tick has latched the wait of `c`, sampled it, called the sockets and recorded it: `z`. -/
structure Decoded (c : Presented) (data : Byte) (s z : State) : Prop where
  write : isRead (sixFlags c.flags) = false → data = c.data
  read : isMemRead (sixFlags c.flags) = true → s.trk.pageOut = false → data = memRead c.addr s
  engine : { z.eng with
      sock := (cycleTurn c data s).2.eng.sock, wait := (cycleTurn c data s).2.eng.wait
      counters := (cycleTurn c data s).2.eng.counters } = (cycleTurn c data s).2.eng
  wait : z.eng.wait = { (cycleTurn c data s).2.eng.wait with
    asserted := true, assertedAt := z.world.clock, cur := cycleRecord c data s }
  counters : z.eng.counters.noDiag = s.eng.counters.noDiag
  kept : SocketsKept (cycleTurn c data s).2 z
  trk : z.trk = (cycleTurn c data s).2.trk
  bp : z.bp = s.bp
  cfg : z.cfg = s.cfg
  bus : SameBus s.world z.world
  present : z.world.present = some { c with settle := [] }
  waitCalls : waitCalls z = ((enabledHandles s).map (fun h =>
    CallRecord.waitCycle h c.addr data (shownFlags c.flags))).reverse ++ waitCalls s
  doneCalls : doneCalls z = doneCalls s
  time : ∀ g gs, s.world.timeDraws = g :: gs →
    z.world.clock = s.world.clock + g ∧ z.world.timeDraws = gs

/-- The tracker's turn leaves the wait in progress but for the hold. -/
theorem trackerTurn_wait (addr : Addr) (data : Byte) (f : CtrlFlags) (s : State) :
    (trackerTurn addr data f s).2.eng.wait =
      { s.eng.wait with hold := (trackerTurn addr data f s).2.eng.wait.hold } :=
  (congrArg (fun u : State => u.eng.wait) (trackerTurn_redress_self addr data f s)).symm

/-- Step 4 of the service (41_wait_service.md R177): a cycle with a hold is kept, any other is completed. -/
def holdOrComplete (z : State) : State :=
  if z.eng.wait.hold then setWaitState { z.eng.wait with held := true } z else completeServiced z

/-- The cycle `c` with sampled `data` is recorded with the merge of a fan-out's decisions. -/
def recorded (c : Presented) (data : Byte) (r : List Decision × State) : State :=
  setWaitState { r.2.eng.wait with cur :=
    { addr := c.addr, data := data, flags := shownFlags c.flags, merged := mergeDecisions r.1 } } r.2

/-- A cycle whose lines have settled is sampled, shown to the sockets, recorded, and held or completed. -/
theorem dispatchCycle_settled {x y : State} {c : Presented} {data : Byte}
    (hp : x.world.present = some c) (hs : c.settle = []) (hdata : sampleData x = (data, y)) :
    dispatchCycle (sixFlags c.flags) x =
      holdOrComplete (recorded c data (fanOut c.addr data (shownFlags c.flags) (handles y) y)) := by
  have hshown : setWait (setM1 (sixFlags c.flags) (flagM1 (sixFlags c.flags))) = shownFlags c.flags := by
    rw [setM1_self]; rfl
  have haddr : pair (hi (sampleAddr x)) (lo (sampleAddr x)) = c.addr := by
    rw [pair_hi_lo, sampleAddr, hp]
  unfold dispatchCycle
  rw [sampleCtrl_settled hp hs]
  simp only [hshown, haddr, hdata]
  rfl

/-- What the fan-out of a tick leaves is the cycle decoded, where the tick has latched the wait, counted
diagnostic events and taken draws before it. -/
theorem recorded_decoded {s : State} {c : Presented} {data : Byte} {d : Word32 × Word32 × Word32}
    {v : World} (ha : Answering s)
    (hwrite : isRead (sixFlags c.flags) = false → data = c.data)
    (hread : isMemRead (sixFlags c.flags) = true → s.trk.pageOut = false → data = memRead c.addr s)
    (hv : OnlyDraws { s.world with present := some { c with settle := [] } } v)
    (htime : ∀ g gs, s.world.timeDraws = g :: gs → v.clock = s.world.clock + g ∧ v.timeDraws = gs) :
    Decoded c data s (recorded c data (fanOut c.addr data (shownFlags c.flags) (handles s)
      (s.redress (s.eng.wait.latched v.clock) (s.eng.counters.addDiag d) v))) := by
  have hay : Answering (s.redress (s.eng.wait.latched v.clock) (s.eng.counters.addDiag d) v) := ha
  obtain ⟨hds, hreplies⟩ := fanOut_answering c.addr data (shownFlags c.flags) hay
  rw [redress_decisionsAt] at hds
  rw [redress_trackerTurn] at hreplies
  change (fanOut _ _ _ (handles s) _).1 = _ at hds
  change OnlyReplies _ _ (fanOut _ _ _ (handles s) _).2 at hreplies
  generalize fanOut _ _ _ (handles s) _ = r at hds hreplies ⊢
  obtain ⟨ds, q⟩ := r
  obtain rfl : ds = _ := hds
  obtain ⟨hcalls, hdone⟩ := hreplies.calls
  obtain ⟨hcfg, hbp, -, -⟩ := trackerTurn_onlyEngTrk c.addr data (shownFlags c.flags) s
  have heng := (congrArg State.eng hreplies.frame :)
  have hworld := (congrArg State.world hreplies.frame :)
  have hbus := hv.sameBus
  refine ⟨hwrite, hread, ?_, ?_, ?_, hreplies.kept, (congrArg State.trk hreplies.frame :),
    Eq.trans (congrArg State.bp hreplies.frame :) hbp, Eq.trans (congrArg State.cfg hreplies.frame :) hcfg,
    ?_, ?_, hcalls.trans (congrArg _ ?_), hdone.trans ?_, fun g gs hg => ?_⟩
  · simp only [recorded, setWaitState, State.withEng_eng]
    rw [heng]
    rfl
  · simp only [recorded, setWaitState, State.withEng_eng, State.withEng_world]
    rw [heng, hworld, trackerTurn_wait]
    rfl
  · simp only [recorded, setWaitState, State.withEng_eng]
    rw [heng]
    rfl
  · simp only [recorded, setWaitState, State.withEng_world]
    rw [hworld]
    exact ⟨hbus.mem, hbus.ioWrites, hbus.delivered, hbus.z80⟩
  · simp only [recorded, setWaitState, State.withEng_world]
    rw [hworld]
    exact hv.present
  · exact congrArg (List.filter CallRecord.isWait) hv.calls
  · exact congrArg (List.filter CallRecord.isComplete) hv.calls
  · simp only [recorded, setWaitState, State.withEng_world]
    rw [hworld]
    exact htime g gs hg

/-- The tick of a fresh wait decodes its cycle, and holds or completes it. -/
theorem afterWait_fresh {s : State} {c : Presented} (hf : FreshWait c s) (ha : Answering s) :
    ∃ data z, Decoded c data s z ∧ afterWait s = holdOrComplete z := by
  obtain ⟨hasserted, -, hp, hvalid, hsettles, hack⟩ := hf
  obtain ⟨d, v, htick, hdraws, htime⟩ := afterWait_detected hasserted hp hack
  generalize hx : s.redress (s.eng.wait.latched v.clock) (s.eng.counters.addDiag d) v = x at htick
  have hpx : x.world.present = some c := by rw [← hx]; exact hdraws.present.trans hp
  have hcfg : x.cfg = s.cfg := by rw [← hx]; rfl
  obtain ⟨data, n, bs, hdata, hwrite, hread⟩ := sampleData_cases (c := { c with settle := [] })
    (s := x.withWorld { x.world with present := some { c with settle := [] } }) rfl
  have hloop : afterWait s = dispatchCycle (sixFlags c.flags)
      (x.withWorld { x.world with present := some { c with settle := [] } }) := by
    rw [htick, decodeAndDispatch, hcfg, settleLoop_settles hpx hvalid hsettles]
  have hdecoded := recorded_decoded (s := s) (c := c) (data := data) (d := d)
    (v := { v with present := some { c with settle := [] }, draws := n, byteDraws := bs }) ha hwrite
    (fun hr hpage => ?_) ?_ htime
  · refine ⟨data, _, hdecoded, ?_⟩
    rw [hloop, dispatchCycle_settled (c := { c with settle := [] }) rfl rfl hdata, ← hx]
    rfl
  · rw [hread hr (by rw [← hx]; exact hpage), ← hx]
    exact congrArg (fun m => Memory.read m c.addr) hdraws.sameBus.mem
  · have h := congrArg (fun w : World => { w with present := some { c with settle := [] } }) hdraws
    exact h

/-- A cycle with a hold requested is kept in its wait (41_wait_service.md R177). -/
theorem holdOrComplete_held {z : State} (h : z.eng.wait.hold = true) :
    holdOrComplete z = setWaitState { z.eng.wait with held := true } z := if_pos h

theorem holdOrComplete_free {z : State} (h : z.eng.wait.hold = false) :
    holdOrComplete z = completeServiced z := if_neg (by simp [h])

theorem Decoded.hold {c : Presented} {data : Byte} {s z : State} (h : Decoded c data s z) :
    z.eng.wait.hold = (cycleTurn c data s).2.eng.wait.hold := by rw [h.wait]

/-- The tracker's turn leaves the action in progress. -/
theorem trackerTurn_act (addr : Addr) (data : Byte) (f : CtrlFlags) (s : State) :
    (trackerTurn addr data f s).2.eng.act = s.eng.act := by
  by_cases h : TrackerCalled s
  · rw [trackerTurn_called h]
    exact ((CallbackStable.of_frame (P := CallbackFrame s) CallbackFrame.trans).trackerOnWaitCycle
      (CallbackFrame.refl s) addr data f).act
  · rw [trackerTurn_skipped h]

/-- Settles O14: the cycle is decoded and its wait kept. -/
theorem tickKeepsHeldCycle : Obligations.TickKeepsHeldCycle := by
  intro s c hf ha hold
  obtain ⟨data, z, hz, htick⟩ := afterWait_fresh hf ha
  rw [holdOrComplete_held (hz.hold.trans (hold data))] at htick
  refine ⟨_, _, data, _, exec_serviceTick s, serviceTick_port s, rfl, rfl, fun hnone => ?_, hz.write,
    hz.read, ?_⟩
  · have hact : (afterWait s).eng.act.status = .none := by
      rw [htick]
      exact (congrArg BusActionState.status ((congrArg Engine.act hz.engine :).trans
        (trackerTurn_act c.addr data (shownFlags c.flags) s))).trans hnone
    have hadv := advance_of_no_action hact
    rw [tickActions_of_asserted, hadv]
    rw [hadv, htick, setWaitState, State.withEng_eng, hz.wait]
  · rw [htick]
    refine ⟨?_, hz.waitCalls, hz.doneCalls, hz.present, hz.bus.delivered, hz.bus.mem, hz.bus.ioWrites,
      hz.bus.z80, hz.counters, hz.engine, hz.kept, hz.trk, hz.bp, hz.cfg⟩
    simp only [setWaitState, State.withEng_eng, State.withEng_world, hz.wait, cycleTurn, cycleRecord,
      hold data]

/-! ### The completed cycle -/

theorem MemoryOk.trackerTurn {s : State} (hs : MemoryOk s) (addr : Addr) (data : Byte) (f : CtrlFlags) :
    MemoryOk (trackerTurn addr data f s).2 := by
  by_cases h : TrackerCalled s
  · rw [trackerTurn_called h]
    exact hs.trackerOnWaitCycle addr data f
  · rwa [trackerTurn_skipped h]

/-- The tracker's injected byte is the merged decision, since it decides first (41_wait_service.md R177). -/
theorem merge_of_tracker_injects {addr : Addr} {data : Byte} {f : CtrlFlags} {s : State} {b : Byte}
    (h : (trackerTurn addr data f s).1 = .injectOpcode b) :
    mergeDecisions (decisionsAt addr data f s) = .injectOpcode b := by
  have ht : TrackerCalled s := by
    by_contra hno
    rw [trackerTurn_skipped hno] at h
    cases h
  have ⟨⟨hpos, _⟩, _⟩ := ht
  obtain ⟨n, hn⟩ := Nat.exists_eq_add_one.mpr hpos
  rw [decisionsAt_of_called addr data f ht hn, h]
  exact mergeDecisions_of_inject rfl

/-- Settles O12: the cycle is decoded and completed. -/
theorem tickServicesCycle : Obligations.TickServicesCycle := by
  intro s c g0 g1 gs hf ha hm htime hold
  obtain ⟨data, z, hz, htick⟩ := afterWait_fresh hf ha
  rw [holdOrComplete_free (hz.hold.trans (hold data))] at htick
  obtain ⟨hclock, hdraws⟩ := hz.time g0 (g1 :: gs) htime
  have hmem : MemoryOk z := (hm.trackerTurn c.addr data (shownFlags c.flags)).of_eq
    (by rw [hz.bus.mem, (trackerTurn_onlyEngTrk _ _ _ s).world]) (by rw [hz.trk])
  obtain ⟨hengine, htrk, hbp, hcfg, -, hends, hnone, hcalls, hclock', hdraws', hbyte, hmemory⟩ :=
    htick ▸ completeServiced_services hz.present hmem hdraws
  have hcur : z.eng.wait.cur = cycleRecord c data s := by rw [hz.wait]
  have hread : ∀ {b}, isRead (sixFlags c.flags) = true →
      byteOfDecision (mergeDecisions (decisionsAt c.addr data (shownFlags c.flags) s)) = some b →
      (afterWait s).world.delivered = some b := by
    intro b hr hb
    refine hbyte b ?_ hr
    rw [hcur]
    exact drivenByte_of_read ((shownFlags_classes c.flags).1.trans hr) hb
  have hlen : z.world.clock + g1 - z.eng.wait.assertedAt = g1 := by
    rw [hz.wait]
    exact Nat.add_sub_cancel_left ..
  rw [hlen, hcur] at hengine
  rw [hz.trk] at hends hmemory
  have hreports : SameReports z (afterWait s) := .of_calls hcalls
  have hact : (afterWait s).eng.act = (cycleTurn c data s).2.eng.act := by
    rw [hengine]
    exact (congrArg Engine.act hz.engine :)
  have hnum : (afterWait s).eng.numSockets = (cycleTurn c data s).2.eng.numSockets := by
    rw [hengine]
    exact (congrArg Engine.numSockets hz.engine :)
  have hkept : SocketsKept (cycleTurn c data s).2 (afterWait s) := by
    intro j
    rw [sockAt_congr (s := z) (by rw [hengine])]
    exact hz.kept j
  refine ⟨_, _, data, _, _, exec_serviceTick s, serviceTick_port s, rfl, rfl, rfl, fun hno => ?_, hz.write,
    hz.read, hreports.wait.trans hz.waitCalls, hreports.done.trans hz.doneCalls, ?_, hnone,
    hclock'.trans (by rw [hclock]), hdraws', fun b => hread, fun b hr hb => hread hr ?_,
    fun hr hpage hnot => ?_, hends.of_sameBus hz.bus (.refl _), ?_, ?_, hkept,
    htrk.trans hz.trk, hbp.trans hz.bp, hcfg.trans hz.cfg⟩
  · rw [tickActions_noActions (hno.congr hact hnum hkept.requests)]
  · rw [hengine, hz.wait, hclock]
    rfl
  · rw [merge_of_tracker_injects hb]
    rfl
  · rw [hmemory (by rw [hcur]; exact drivenByte_notDecoded hnot) hr hpage, memRead, memRead, hz.bus.mem]
  · rw [hengine]
    simp only [cycleRecord, countCycle_shownFlags, countCycle_noDiag, hz.counters]
  · rw [hengine]
    exact hz.engine

end Sys2Proof.Machine
end

section
/-! SUPPORT. The completion callbacks of all sockets (42_bus_actions.md R215): which calls they record, what they
do to the tracker (45_tracker.md R328), and what those that may not transfer leave. -/

namespace Sys2Proof.Machine

/-! ### Which calls are recorded -/

section
variable (a : BusAction) (reason : Byte) (o : ActOutcome)

theorem completeAll_reports (hs : List Nat) (s : State) :
    waitCalls (completeAll a reason o hs s) = waitCalls s ∧
    doneCalls (completeAll a reason o hs s) =
      (hs.map (fun h => CallRecord.complete h a reason o)).reverse ++ doneCalls s := by
  induction hs generalizing s with
  | nil => exact ⟨rfl, rfl⟩
  | cons h hs ih =>
    obtain ⟨hwait, hdone⟩ := ih (callDone a reason o h s)
    have hcall := callDone_reports a reason o h s
    refine ⟨hwait.trans hcall.wait, hdone.trans ?_⟩
    rw [hcall.done, doneCalls_logCall_complete]
    simp

theorem notifyAll_waitCalls (s : State) : waitCalls (notifyAll a reason o s) = waitCalls s :=
  (completeAll_reports a reason o _ s).1

/-- Every registered socket is called once, in order (42_bus_actions.md R215). -/
theorem notifyAll_doneCalls (s : State) : doneCalls (notifyAll a reason o s) =
    allNotified a reason o s.eng.numSockets ++ doneCalls s :=
  (completeAll_reports a reason o _ s).2

end

/-! ### What every completion callback keeps -/

theorem CallbackStable.callDone {P : State → Prop} (hP : CallbackStable P) {s : State} (hs : P s)
    {a : BusAction} {o : ActOutcome} (hT : a = .busRequest → o = .ok → TransferStable P) (reason : Byte)
    (h : Nat) : P (callDone a reason o h s) :=
  callDone_keeps (P := P) (fun _ hv => hP.logCall hv _) (fun _ hv _ => hP.trackerOnComplete hv _ _ _)
    (fun _ hv _ => hP.nextDoneReply hv h)
    (fun cs _ hv => hP.runCallbackCommands
      (fun hm => hT (of_decide_eq_true hm).1 (of_decide_eq_true hm).2) hv h cs) hs

theorem CallbackStable.completeAll {P : State → Prop} (hP : CallbackStable P) {s : State} (hs : P s)
    {a : BusAction} {o : ActOutcome} (hT : a = .busRequest → o = .ok → TransferStable P) (reason : Byte)
    (hands : List Nat) : P (completeAll a reason o hands s) :=
  completeAll_keeps (P := P) (fun h _ hu => hP.callDone hu hT reason h) hands hs

theorem TableKept.callDone {c : Params} {n : Nat} {s : State} (hs : TableKept c n s) (a : BusAction)
    (reason : Byte) (o : ActOutcome) (h : Nat) : TableKept c n (callDone a reason o h s) :=
  (TableKept.callbackStable c n).callDone hs
    (fun _ _ => (TableKept.stepStable c n).transfer) reason h

/-! ### The tracker among the callbacks -/

/-- Only slot 0 is the tracker's. -/
theorem TableOk.onDone_ne_tracker {s : State} (hs : TableOk s) {h : Nat} (h0 : h ≠ 0) :
    (sockAt s h).onDone ≠ .tracker := by
  obtain ⟨hlen, -, -, -, hcoll, -⟩ := hs
  by_cases hh : h < s.cfg.maxSockets
  · exact (hcoll h hh (Nat.pos_of_ne_zero h0)).2
  · rw [sockAt_outside (by omega)]
    nofun

theorem nextDoneReply_trk (h : Nat) (s : State) : (nextDoneReply h s).2.trk = s.trk := by
  obtain ⟨_, _, -, hn⟩ | ⟨_, hn⟩ | ⟨-, hn⟩ := nextDoneReply_cases h s <;> rw [hn] <;> rfl

theorem runCallbackCommands_trk (h : Nat) (m : Bool) (cs : List CbCommand) (s : State) :
    (runCallbackCommands h m cs s).trk = s.trk :=
  runCallbackCommands_keeps (P := fun u => u.trk = s.trk)
    (fun c u hu => (callbackCommand_transferFrame m c u).trk.trans hu) (fun _ _ _ hu => hu) cs rfl

section
variable (a : BusAction) (reason : Byte) (o : ActOutcome)

/-- A collaborator's callback leaves the tracker. -/
theorem callDone_trk_collaborator {h : Nat} {s : State} (hk : (sockAt s h).onDone ≠ .tracker) :
    (callDone a reason o h s).trk = s.trk := by
  have hcall : callDone a reason o h s = runCallbackCommands h (decide (a = .busRequest ∧ o = .ok))
      (nextDoneReply h (logCall (.complete h a reason o) s)).1
      (nextDoneReply h (logCall (.complete h a reason o) s)).2 := if_neg hk
  rw [hcall, runCallbackCommands_trk, nextDoneReply_trk, logCall_trk]

theorem completeAll_trk_collaborators {c : Params} {n : Nat} {hands : List Nat} (h0 : 0 ∉ hands)
    {s : State} (hs : TableKept c n s) : (completeAll a reason o hands s).trk = s.trk := by
  induction hands generalizing s with
  | nil => rfl
  | cons h hands ih =>
    obtain ⟨hne, hrest⟩ := not_or.mp (mt List.mem_cons.mpr h0)
    exact (ih hrest (hs.callDone a reason o h)).trans
      (callDone_trk_collaborator a reason o (hs.1.1.onDone_ne_tracker (Ne.symm hne)))

/-- A notification does to the tracker what the tracker's callback does. -/
theorem notifyAll_trk {s : State} (hs : SocketsOk s) :
    (notifyAll a reason o s).trk =
      (trackerOnComplete a reason o (logCall (.complete 0 a reason o) s)).trk := by
  have htable : TableKept s.cfg s.eng.numSockets s := ⟨hs, rfl, le_refl _⟩
  obtain ⟨⟨-, hone, -, -, -, -, -, hdone, -⟩, -⟩ := hs
  obtain ⟨n, hn⟩ := Nat.exists_eq_add_of_le' hone
  have hfirst : callDone a reason o 0 s =
      trackerOnComplete a reason o (logCall (.complete 0 a reason o) s) := if_pos hdone
  rw [notifyAll, handles, hn, List.range_succ_eq_map, completeAll, completeAll_trk_collaborators a reason o
    (by simp) (htable.callDone a reason o 0), hfirst]

end

/-! ### The tracker's callback (45_tracker.md R328) -/

theorem releaseHold_trk (s : State) : (releaseHold s).trk = { s.trk with held := false } := by
  unfold releaseHold
  split
  · rw [State.withTrk_trk, setHold_trk]
  · rename_i h
    rw [← Bool.eq_false_iff.mpr h]

theorem doDisable_trk (s : State) : (doDisable s).trk = trackerOff s.trk := by
  simp only [doDisable, setWaitOn_trk, enableSocket_trk, State.withTrk_trk, releaseHold_trk]
  rfl

theorem trackerOnComplete_reset_trk (reason : Byte) (o : ActOutcome) (s : State) :
    (trackerOnComplete .reset reason o s).trk = trackerAfterReset s.trk := by
  simp only [trackerOnComplete, releaseHold_trk, resetHistory, State.withTrk_trk, abortInjection,
    trackerAfterReset]
  by_cases hi : s.trk.state = .injecting
  · by_cases hd : s.trk.disablePending = true
    · simp [hi, hd, doDisable_trk, trackerOff]
    · simp [hi, hd]
  · simp [hi]

theorem trackerOnComplete_pulse_trk (p : Pulse) (reason : Byte) (o : ActOutcome) (s : State) :
    (trackerOnComplete (actionOfPulse p) reason o s).trk = trackerAfterPulse p s.trk := by
  have hpulse : (if s.trk.state = .injecting then s.withTrk { s.trk with disturbed := true } else s).trk =
      { s.trk with disturbed := s.trk.disturbed || decide (s.trk.state = .injecting) } := by
    split
    · rename_i h
      simp [h]
    · rename_i h
      simp [h]
  cases p with
  | reset => exact trackerOnComplete_reset_trk reason o s
  | nmi => exact hpulse
  | irq => exact hpulse

theorem trackerOnComplete_timeout_trk (a : BusAction) (reason : Byte) (s : State) :
    (trackerOnComplete a reason .actionTimedOut s).trk = trackerAfterTimeout a reason s.trk := by
  cases a with
  | none => rfl
  | reset => exact trackerOnComplete_reset_trk reason _ s
  | nmi => exact trackerOnComplete_pulse_trk .nmi reason _ s
  | irq => exact trackerOnComplete_pulse_trk .irq reason _ s
  | busRequest =>
    simp only [trackerOnComplete, trackerAfterTimeout]
    split <;> rfl

/-- A granted BusRequest of the tracker copies memory into the mirror (45_tracker.md R330). -/
theorem trackerOnComplete_granted_trk (reason : Byte) {s : State} (hm : s.eng.mastered = true) :
    (trackerOnComplete .busRequest reason .ok s).trk =
      if reason = mirrorReason then { s.trk with mirror := s.world.mem, mirrorValid := true }
      else s.trk := by
  simp only [trackerOnComplete, mirrorMemory, hm, if_true]
  split <;> rfl

theorem trackerOnComplete_failed_trk (reason : Byte) (s : State) :
    (trackerOnComplete .busRequest reason .busRequestFailed s).trk =
      if reason = mirrorReason then { s.trk with mirrorValid := false } else s.trk := by
  simp only [trackerOnComplete]
  split <;> rfl

/-! ### Callbacks that may not transfer -/

/-- Only the slots, their aggregates, the record of calls and the count of draws differ, and what the
callbacks' commands write: the tracker and the breakpoint tables. -/
structure Quiet (s t : State) : Prop where
  engine : t.eng.sansSlots = s.eng.sansSlots
  world : { t.world with calls := s.world.calls, draws := s.world.draws } = s.world

namespace Quiet

variable {s t u : State}

theorem refl (s : State) : Quiet s s := ⟨rfl, rfl⟩

theorem trans (h : Quiet s t) (g : Quiet t u) : Quiet s u := by
  refine ⟨g.engine.trans h.engine, ?_⟩
  have hw := congrArg (fun w : World => { w with calls := s.world.calls, draws := s.world.draws }) g.world
  exact hw.trans h.world

theorem bus (h : Quiet s t) : SameBus s.world t.world :=
  ⟨(congrArg World.mem h.world :), (congrArg World.ioWrites h.world :),
    (congrArg World.delivered h.world :), (congrArg World.z80 h.world :)⟩

theorem present (h : Quiet s t) : t.world.present = s.world.present :=
  (congrArg World.present h.world :)

theorem clearAction (h : Quiet s t) : Quiet (clearAction s) (clearAction t) :=
  ⟨congrArg (fun e : Engine => { e with act := BusActionState.cleared }) h.engine, h.world⟩

theorem runCallbackCommands (h : Nat) (cs : List CbCommand) (s : State) :
    Quiet s (runCallbackCommands h false cs s) :=
  runCallbackCommands_keeps (P := Quiet s)
    (fun c u hu => hu.trans
      ⟨(callbackCommand_slotsOrTables c u).engine, by rw [(callbackCommand_slotsOrTables c u).world]⟩)
    (fun _ _ _ hu => hu.trans ⟨rfl, rfl⟩) cs (refl s)

theorem nextDoneReply (h : Nat) (s : State) : Quiet s (nextDoneReply h s).2 := by
  obtain ⟨_, _, -, hn⟩ | ⟨_, hn⟩ | ⟨-, hn⟩ := nextDoneReply_cases h s <;> rw [hn] <;> exact ⟨rfl, rfl⟩

theorem trackerOnComplete (a : BusAction) (reason : Byte) (o : ActOutcome) (s : State) :
    Quiet s (trackerOnComplete a reason o s) :=
  ⟨((CallbackStable.of_frame (P := CallbackFrame s) CallbackFrame.trans).trackerOnComplete
      (CallbackFrame.refl s) a reason o).engine,
    by rw [(trackerOnComplete_onlyEngTrk a reason o s).world]⟩

/-- The callbacks of a Reset, NMI or IRQ, and those of a failure, transfer nothing. -/
theorem notifyAll {a : BusAction} {o : ActOutcome} (h : a ≠ .busRequest ∨ o ≠ .ok) (reason : Byte)
    (s : State) : Quiet s (notifyAll a reason o s) := by
  have hno : decide (a = .busRequest ∧ o = .ok) = false :=
    decide_eq_false fun hg => h.elim (absurd hg.1) (absurd hg.2)
  exact completeAll_keeps (P := Quiet s)
    (fun j u hu => callDone_keeps (P := Quiet s) (fun _ hv => hv.trans ⟨rfl, rfl⟩)
      (fun v hv _ => hv.trans (trackerOnComplete a reason o v))
      (fun v hv _ => hv.trans (nextDoneReply j v))
      (fun cs v hv => by rw [hno]; exact hv.trans (runCallbackCommands j cs v)) hu) _ (refl s)

end Quiet

end Sys2Proof.Machine
end

section
/-! SUPPORT. The end of the action in progress (42_bus_actions.md R214, R217), and the tick that keeps a wait
(41_wait_service.md R170, R184). -/

namespace Sys2Proof.Machine

/-! ### What the end of an action leaves -/

/-- The action in progress is as it was or has ended; the wait, the counters, mastership, the bus and the
wait calls made are as they were. -/
structure ActionMayEnd (s t : State) : Prop where
  waitCalls : waitCalls t = waitCalls s
  wait : { t.eng.wait with hold := s.eng.wait.hold } = s.eng.wait
  counters : t.eng.counters = s.eng.counters
  mastered : t.eng.mastered = s.eng.mastered
  bus : SameBus s.world t.world
  present : t.world.present = s.world.present
  act : t.eng.act = s.eng.act ∨ t.eng.act = BusActionState.cleared

namespace ActionMayEnd

variable {s t u : State}

theorem refl (s : State) : ActionMayEnd s s := ⟨rfl, rfl, rfl, rfl, .refl _, rfl, .inl rfl⟩

theorem trans (h : ActionMayEnd s t) (g : ActionMayEnd t u) : ActionMayEnd s u := by
  refine ⟨g.waitCalls.trans h.waitCalls, ?_, g.counters.trans h.counters, g.mastered.trans h.mastered,
    h.bus.trans g.bus, g.present.trans h.present, ?_⟩
  · have hw := congrArg (fun w : WaitState => { w with hold := s.eng.wait.hold }) g.wait
    exact hw.trans h.wait
  · rcases g.act with hact | hact
    · rw [hact]
      exact h.act
    · exact .inr hact

theorem now (s : State) : ActionMayEnd s (now s).2 :=
  ⟨by simp [Machine.waitCalls], by simp, by simp, by simp, by constructor <;> simp, by simp, .inl (by simp)⟩

theorem deassertLine (a : BusAction) (s : State) : ActionMayEnd s (deassertLine a s) :=
  ⟨by simp [Machine.waitCalls], by simp, by simp, by simp, by constructor <;> simp, by simp, .inl (by simp)⟩

theorem clearAction (s : State) : ActionMayEnd s (clearAction s) :=
  ⟨rfl, rfl, rfl, rfl, .refl _, rfl, .inr rfl⟩

theorem notifyAll {a : BusAction} {o : ActOutcome} (h : a ≠ .busRequest ∨ o ≠ .ok) (reason : Byte)
    (s : State) : ActionMayEnd s (notifyAll a reason o s) := by
  have hq := Quiet.notifyAll h reason s
  exact ⟨notifyAll_waitCalls a reason o s,
    (congrArg (fun e : Engine => { e.wait with hold := s.eng.wait.hold }) hq.engine :),
    (congrArg Engine.counters hq.engine :), (congrArg Engine.mastered hq.engine :), hq.bus, hq.present,
    .inl (congrArg Engine.act hq.engine :)⟩

theorem advancePending (s : State) : ActionMayEnd s (advancePending s) := by
  obtain h | h | ⟨-, ha, h⟩ := advancePending_cases s <;> rw [h]
  · exact refl s
  · exact now s
  · exact (((now s).trans (deassertLine _ _)).trans
      (notifyAll (.inl (isPulse_ne_busRequest ha)) _ _)).trans (clearAction _)

theorem actionTimeoutCheck (s : State) : ActionMayEnd s (actionTimeoutCheck s) := by
  obtain h | h | ⟨-, h⟩ | ⟨-, h⟩ := actionTimeoutCheck_cases s <;> rw [h]
  · exact refl s
  · exact now s
  · exact (((now s).trans (deassertLine _ _)).trans (clearAction _)).trans
      (notifyAll (.inr (by decide)) _ _)
  · exact ((now s).trans (clearAction _)).trans (notifyAll (.inr (by decide)) _ _)

end ActionMayEnd

/-! ### A wait that stays asserted -/

/-- A wait that is asserted and not to be completed is neither decoded nor released. -/
theorem afterWait_of_kept {s : State} (ha : s.eng.wait.asserted = true)
    (h : s.eng.wait.held = false ∨ s.eng.wait.hold = true) : afterWait s = diagEvents s := by
  rcases h with h | h <;> simp [afterWait, tickWait, ha, h]

/-- Settles O16: the wait half counts diagnostic events, and of the action half only the end of the action in
progress is left. -/
theorem heldCycleStays : Obligations.HeldCycleStays := by
  intro s ha h
  obtain ⟨d, v, hdiag, hv⟩ := diagEvents_redress s
  obtain ⟨hbus, hcalls, -, -, hpres, -⟩ := sameBus_of_diagDraws hv
  have hend := (ActionMayEnd.advancePending (diagEvents s)).trans (ActionMayEnd.actionTimeoutCheck _)
  have hkept : tickActions (afterWait s) = actionTimeoutCheck (advancePending (diagEvents s)) := by
    rw [afterWait_of_kept ha h, tickActions_of_asserted]
    exact (congrArg WaitState.asserted hend.wait :).trans (by simpa using ha)
  refine ⟨_, exec_serviceTick s, rfl, ?_⟩
  rw [hkept]
  generalize actionTimeoutCheck (advancePending (diagEvents s)) = t at hend ⊢
  rw [hdiag] at hend
  obtain ⟨hwaits, hwait, hcounters, hmastered, hbus', hpres', hact⟩ := hend
  have hsame := hbus.trans hbus'
  exact ⟨hwaits.trans (congrArg (List.filter CallRecord.isWait) hcalls),
    (congrArg WaitState.asserted hwait :).trans ha, (congrArg WaitState.held hwait :),
    (congrArg WaitState.cur hwait :), hpres'.trans hpres, hsame.delivered, hsame.mem, hsame.z80,
    (congrArg Counters.noDiag hcounters :), hmastered, hact⟩

end Sys2Proof.Machine
end

section
/-! SUPPORT. The end of the action in progress (42_bus_actions.md R214, R217): when it ends, and what its end
leaves. -/

namespace Sys2Proof.Machine

@[simp] theorem isPulse_actionOfPulse (p : Pulse) : isPulse (actionOfPulse p) = true := by cases p <;> rfl

/-! ### When an action ends -/

section
variable {s : State}

/-- ADVANCE_PENDING before the duration is reached only reads the time. -/
theorem advancePending_running (hst : s.eng.act.status = .asserted)
    (hp : isPulse s.eng.act.action = true)
    (hd : (now s).1 - s.eng.act.assertedAt < s.eng.act.durationUs) : advancePending s = (now s).2 := by
  have hask : ¬(s.eng.act.status ≠ .asserted ∨ isPulse s.eng.act.action = false) := by simp [hst, hp]
  rw [advancePending, if_neg hask]
  simp only [now_eng]
  exact if_pos hd

theorem advancePending_ended (hst : s.eng.act.status = .asserted) (hp : isPulse s.eng.act.action = true)
    (hd : s.eng.act.durationUs ≤ (now s).1 - s.eng.act.assertedAt) :
    advancePending s = clearAction (notifyAll s.eng.act.action s.eng.act.reason .ok
      (deassertLine s.eng.act.action (now s).2)) := by
  have hask : ¬(s.eng.act.status ≠ .asserted ∨ isPulse s.eng.act.action = false) := by simp [hst, hp]
  rw [advancePending, if_neg hask]
  simp only [now_eng]
  exact if_neg (Nat.not_lt.mpr hd)

/-- The timeout check of an action within `ACTION_TIMEOUT_US` only reads the time. -/
theorem actionTimeoutCheck_within (hst : s.eng.act.status ≠ .none)
    (hd : (now s).1 - s.eng.act.startTime ≤ s.cfg.actionTimeoutUs) : actionTimeoutCheck s = (now s).2 := by
  rw [actionTimeoutCheck, if_neg hst]
  simp only [now_eng, now_cfg]
  exact if_pos hd

theorem actionTimeoutCheck_asserted (hst : s.eng.act.status = .asserted)
    (hd : s.cfg.actionTimeoutUs < (now s).1 - s.eng.act.startTime) :
    actionTimeoutCheck s = notifyAll s.eng.act.action s.eng.act.reason .actionTimedOut
      (clearAction (deassertLine s.eng.act.action (now s).2)) := by
  rw [actionTimeoutCheck, if_neg (by simp [hst])]
  simp only [now_eng, now_cfg, if_neg (Nat.not_le.mpr hd), if_pos hst]

theorem actionTimeoutCheck_pending (hst : s.eng.act.status = .pending)
    (hd : s.cfg.actionTimeoutUs < (now s).1 - s.eng.act.startTime) :
    actionTimeoutCheck s = notifyAll s.eng.act.action s.eng.act.reason .actionTimedOut
      (clearAction (now s).2) := by
  have hline : ¬s.eng.act.status = .asserted := by simp [hst]
  rw [actionTimeoutCheck, if_neg (by simp [hst])]
  simp only [now_eng, now_cfg, if_neg (Nat.not_le.mpr hd), if_neg hline]

end

/-! ### What its end leaves -/

/-- From `x`, in which its line is deasserted, the action `a` has ended with outcome `o`: it is cleared, every
registered socket was called, and the tracker is `k`. -/
structure ActionEnds (a : BusAction) (reason : Byte) (o : ActOutcome) (k : Tracker) (x t : State) : Prop where
  act : t.eng.act = BusActionState.cleared
  lineReset : t.eng.lineReset = x.eng.lineReset
  lineNmi : t.eng.lineNmi = x.eng.lineNmi
  lineIrq : t.eng.lineIrq = x.eng.lineIrq
  lineBusrq : t.eng.lineBusrq = x.eng.lineBusrq
  mastered : t.eng.mastered = x.eng.mastered
  numSockets : t.eng.numSockets = x.eng.numSockets
  skipRefreshPrimed : t.eng.skipRefreshPrimed = x.eng.skipRefreshPrimed
  counters : t.eng.counters = x.eng.counters
  asserted : t.eng.wait.asserted = x.eng.wait.asserted
  mem : t.world.mem = x.world.mem
  z80 : t.world.z80 = x.world.z80
  present : t.world.present = x.world.present
  waitCalls : waitCalls t = waitCalls x
  doneCalls : doneCalls t = allNotified a reason o x.eng.numSockets ++ doneCalls x
  trk : t.trk = k

namespace ActionEnds

variable {a : BusAction} {reason : Byte} {o : ActOutcome} {k : Tracker} {x t : State}

theorem of_quiet (hq : Quiet (clearAction x) t) (hwait : Machine.waitCalls t = Machine.waitCalls x)
    (hdone : Machine.doneCalls t = allNotified a reason o x.eng.numSockets ++ Machine.doneCalls x)
    (htrk : t.trk = k) : ActionEnds a reason o k x t where
  act := (congrArg Engine.act hq.engine :)
  lineReset := (congrArg Engine.lineReset hq.engine :)
  lineNmi := (congrArg Engine.lineNmi hq.engine :)
  lineIrq := (congrArg Engine.lineIrq hq.engine :)
  lineBusrq := (congrArg Engine.lineBusrq hq.engine :)
  mastered := (congrArg Engine.mastered hq.engine :)
  numSockets := (congrArg Engine.numSockets hq.engine :)
  skipRefreshPrimed := (congrArg Engine.skipRefreshPrimed hq.engine :)
  counters := (congrArg Engine.counters hq.engine :)
  asserted := (congrArg (fun e : Engine => e.wait.asserted) hq.engine :)
  mem := hq.bus.mem
  z80 := hq.bus.z80
  present := hq.present
  waitCalls := hwait
  doneCalls := hdone
  trk := htrk

/-- The callbacks run before the action is cleared (42_bus_actions.md R214). -/
theorem notify_clear (ha : a ≠ .busRequest) (hx : SocketsOk x)
    (hk : ∀ v : State, v.trk = x.trk → (trackerOnComplete a reason o v).trk = k) :
    ActionEnds a reason o k x (clearAction (notifyAll a reason o x)) :=
  .of_quiet (Quiet.notifyAll (.inl ha) reason x).clearAction (notifyAll_waitCalls a reason o x)
    (notifyAll_doneCalls a reason o x) ((notifyAll_trk a reason o hx).trans (hk _ rfl))

/-- The action is cleared before the callbacks run (42_bus_actions.md R216, R217). -/
theorem clear_notify (ho : o ≠ .ok) (hx : SocketsOk (clearAction x))
    (hk : ∀ v : State, v.trk = x.trk → (trackerOnComplete a reason o v).trk = k) :
    ActionEnds a reason o k x (notifyAll a reason o (clearAction x)) :=
  .of_quiet (Quiet.notifyAll (.inr ho) reason _) (notifyAll_waitCalls a reason o _)
    (notifyAll_doneCalls a reason o _) ((notifyAll_trk a reason o hx).trans (hk _ rfl))

/-- What differs from `x` only in time and draws has the same bus and the same calls. -/
theorem of_onlyTime {y : State} (h : ActionEnds a reason o k y t) (hxy : OnlyTime x y) :
    ActionEnds a reason o k x t := by
  obtain ⟨-, heng, -, -, -, hworld, -⟩ := hxy
  have hcalls : y.world.calls = x.world.calls := (congrArg World.calls hworld :)
  have hwait := h.waitCalls
  have hdone := h.doneCalls
  simp only [Machine.waitCalls, Machine.doneCalls, hcalls, heng] at hwait hdone
  exact {
    act := h.act
    lineReset := heng ▸ h.lineReset
    lineNmi := heng ▸ h.lineNmi
    lineIrq := heng ▸ h.lineIrq
    lineBusrq := heng ▸ h.lineBusrq
    mastered := heng ▸ h.mastered
    numSockets := heng ▸ h.numSockets
    skipRefreshPrimed := heng ▸ h.skipRefreshPrimed
    counters := heng ▸ h.counters
    asserted := heng ▸ h.asserted
    mem := h.mem.trans (congrArg World.mem hworld :)
    z80 := h.z80.trans (congrArg World.z80 hworld :)
    present := h.present.trans (congrArg World.present hworld :)
    waitCalls := hwait
    doneCalls := hdone
    trk := h.trk }

end ActionEnds

/-- The line of a Reset, NMI or IRQ is deasserted, and no other. -/
theorem deassertLine_pulse (p : Pulse) (s : State) :
    (deassertLine (actionOfPulse p) s).eng.lineReset = (s.eng.lineReset && decide (p ≠ .reset)) ∧
    (deassertLine (actionOfPulse p) s).eng.lineNmi = (s.eng.lineNmi && decide (p ≠ .nmi)) ∧
    (deassertLine (actionOfPulse p) s).eng.lineIrq = (s.eng.lineIrq && decide (p ≠ .irq)) ∧
    (deassertLine (actionOfPulse p) s).eng.lineBusrq = s.eng.lineBusrq := by
  cases p <;> simp [deassertLine, setLine, actionOfPulse]

theorem OnlyTime.deassertLine {s t : State} (h : OnlyTime s t) (a : BusAction) :
    OnlyTime (deassertLine a s) (deassertLine a t) := by
  obtain ⟨hcfg, heng, htrk, hbp, hport, hworld, hclock⟩ := h
  have hline : (Machine.deassertLine a t).eng = (Machine.deassertLine a s).eng := by
    cases a <;> simp [Machine.deassertLine, setLine, heng]
  exact ⟨by simpa, hline, by simpa, by simpa, by simpa, by simpa [SameWorldButTime], by simpa⟩

/-- A Reset, NMI or IRQ in progress from `u`, and how the tick's advance and timeout check end it. -/
theorem ActionEnds.pulse {u : State} (hu : SocketsOk u) {p : Pulse} {o : ActOutcome}
    (hst : u.eng.act.status = .asserted) (ha : u.eng.act.action = actionOfPulse p)
    (ho : o = .ok ∧ u.eng.act.durationUs ≤ (now u).1 - u.eng.act.assertedAt ∨
      o = .actionTimedOut ∧ (now u).1 - u.eng.act.assertedAt < u.eng.act.durationUs ∧
        u.cfg.actionTimeoutUs < (now (now u).2).1 - u.eng.act.startTime) :
    ActionEnds (actionOfPulse p) u.eng.act.reason o (trackerAfterPulse p u.trk)
      (deassertLine (actionOfPulse p) u) (actionTimeoutCheck (advancePending u)) := by
  have hp : isPulse u.eng.act.action = true := by rw [ha, isPulse_actionOfPulse]
  have htable : TableKept u.cfg u.eng.numSockets u := ⟨hu, rfl, le_refl _⟩
  have htime : OnlyTime u (now u).2 := now_onlyTime u
  rcases ho with ⟨rfl, hd⟩ | ⟨rfl, hd, ht⟩
  · rw [advancePending_ended hst hp hd, ha, actionTimeoutCheck_idle rfl]
    refine (notify_clear (isPulse_ne_busRequest (isPulse_actionOfPulse p))
      (htable.now.deassertLine _).1 fun v hv => ?_).of_onlyTime (htime.deassertLine _)
    rw [trackerOnComplete_pulse_trk, hv, deassertLine_trk, now_trk]
  · rw [advancePending_running hst hp hd, actionTimeoutCheck_asserted (by simp [hst]) (by simpa using ht)]
    simp only [now_eng, ha]
    refine (clear_notify (by decide) (htable.now.now.deassertLine _).clearAction.1 fun v hv => ?_).of_onlyTime
      ((htime.trans (now_onlyTime _)).deassertLine _)
    rw [trackerOnComplete_pulse_trk, hv, deassertLine_trk, now_trk, now_trk]

/-- A pending action that the global timeout ends. -/
theorem ActionEnds.pending {u : State} (hu : SocketsOk u) (hst : u.eng.act.status = .pending)
    (hd : u.cfg.actionTimeoutUs < (now u).1 - u.eng.act.startTime) :
    ActionEnds u.eng.act.action u.eng.act.reason .actionTimedOut
      (trackerAfterTimeout u.eng.act.action u.eng.act.reason u.trk)
      u (actionTimeoutCheck (advancePending u)) := by
  have htable : TableKept u.cfg u.eng.numSockets u := ⟨hu, rfl, le_refl _⟩
  rw [advancePending_idle (by simp [hst]), actionTimeoutCheck_pending hst hd]
  refine (clear_notify (by decide) htable.now.clearAction.1 fun v hv => ?_).of_onlyTime (now_onlyTime u)
  rw [trackerOnComplete_timeout_trk, hv, now_trk]

end Sys2Proof.Machine
end

section
/-! SUPPORT. The next action (42_bus_actions.md R212, R213): which request is taken, and the Reset, NMI or IRQ
that is asserted in the same tick. -/

namespace Sys2Proof.Machine

/-! ### The request that is taken -/

/-- No handle below `h` asks for anything. -/
def FirstRequest (h : Nat) (s : State) : Prop :=
  ∀ j, j < h → (sockAt s j).actionRequest = none ∧ (sockAt s j).busMasterRequest = none

section
variable {s : State} {h : Nat}

/-- The scan passes over handles that ask for nothing. -/
theorem findRequest_append {hs : List Nat}
    (hnone : ∀ j ∈ hs, (sockAt s j).actionRequest = none ∧ (sockAt s j).busMasterRequest = none)
    (ks : List Nat) : findRequest s (hs ++ ks) = findRequest s ks := by
  induction hs with
  | nil => rfl
  | cons j hs ih =>
    obtain ⟨haction, hbus⟩ := hnone j List.mem_cons_self
    simp [findRequest, haction, hbus, ih fun i hi => hnone i (List.mem_cons_of_mem _ hi)]

/-- The scan of the registered sockets comes to the first that asks for something. -/
theorem findRequest_handles (hh : h < s.eng.numSockets) (hfirst : FirstRequest h s) :
    ∃ ks, findRequest s (handles s) = findRequest s (h :: ks) := by
  obtain ⟨n, hn⟩ := Nat.exists_eq_add_of_lt hh
  refine ⟨(List.range n).map (fun i => h + (i + 1)), ?_⟩
  have hsplit : handles s =
      List.range h ++ h :: (List.range n).map (fun i => h + (i + 1)) := by
    rw [handles, hn, Nat.add_assoc, List.range_add, List.range_succ_eq_map]
    simp
  rw [hsplit, findRequest_append fun j hj => hfirst j (List.mem_range.mp hj)]

/-- The action that a request has become when it is taken (42_bus_actions.md R212). -/
def BusActionState.taken (h : Nat) (a : BusAction) (reason : Byte) (t : Nat) : BusActionState :=
  { status := .pending, action := a, socket := h, reason := reason, startTime := t
    assertedAt := 0, durationUs := 0 }

/-- The state in which the request of slot `h` is taken, its record then being `k`. -/
def State.taking (h : Nat) (k : Socket) (a : BusAction) (reason : Byte) (s : State) : State :=
  (now s).2.withEng { s.eng with
    sock := s.eng.sock.set h k, act := .taken h a reason (now s).1 }

theorem checkPending_found {k : Socket} {a : BusAction} {reason : Byte} (hst : s.eng.act.status = .none)
    (hm : s.eng.mastered = false) (hf : findRequest s (handles s) = some (h, a, reason, k)) :
    checkPending s = s.taking h k a reason := by
  rw [checkPending, if_neg (not_not.mpr hst), if_neg (by simp [hm]), hf]
  simp only [setSock, now_withEng]
  rfl

/-- The lowest handle's Reset, NMI or IRQ is taken and consumed. -/
theorem checkPending_pulse (hst : s.eng.act.status = .none) (hm : s.eng.mastered = false)
    (hh : h < s.eng.numSockets) (hfirst : FirstRequest h s) {p : Pulse} {reason : Byte}
    (hreq : (sockAt s h).actionRequest = some (p, reason)) :
    checkPending s = s.taking h { sockAt s h with actionRequest := none } (actionOfPulse p) reason := by
  obtain ⟨ks, hks⟩ := findRequest_handles hh hfirst
  exact checkPending_found hst hm (hks.trans (by simp [findRequest, hreq]))

/-- The lowest handle's BusRequest is taken and consumed, where it asks for no pulse. -/
theorem checkPending_bus (hst : s.eng.act.status = .none) (hm : s.eng.mastered = false)
    (hh : h < s.eng.numSockets) (hfirst : FirstRequest h s) {reason : Byte}
    (hno : (sockAt s h).actionRequest = none) (hreq : (sockAt s h).busMasterRequest = some reason) :
    checkPending s = s.taking h { sockAt s h with busMasterRequest := none } .busRequest reason := by
  obtain ⟨ks, hks⟩ := findRequest_handles hh hfirst
  exact checkPending_found hst hm (hks.trans (by simp [findRequest, hno, hreq]))

theorem taking_sockAt (hl : h < s.eng.sock.length) (k : Socket) (a : BusAction) (reason : Byte) :
    sockAt (s.taking h k a reason) h = k := by
  simp [sockAt, State.taking, List.getD_eq_getElem?_getD, hl]

end

/-! ### The assert of a Reset, NMI or IRQ (42_bus_actions.md R213) -/

/-- The duration that a socket asks for. -/
def Socket.durationOf (k : Socket) : Pulse → Nat
  | .reset => k.durResetUs
  | .nmi => k.durNmiUs
  | .irq => k.durIrqUs

theorem setLine_withEng (a : BusAction) (v : Bool) (s : State) :
    setLine a v s = s.withEng (setLine a v s).eng := by
  cases a <;> rfl

/-- The world after the assert of a line and the read of the time. -/
def assertedWorld (a : BusAction) (s : State) : World := (now (assertLine a s)).2.world

/-- The assert writes the line and the action, which is asserted at the time that is read. -/
theorem assertPulse_state (a : BusAction) (d : Nat) (s : State) :
    (assertPulse a d s).2 = (s.withEng { (setLine a true s).eng with
      act := { s.eng.act with
        durationUs := d, assertedAt := (assertedWorld a s).clock, status := .asserted } }).withWorld
          (assertedWorld a s) := by
  have hnow : (now (assertLine a s)).2 = (s.withEng (setLine a true s).eng).withWorld (assertedWorld a s) := by
    rw [← setLine_withEng]
    exact ((assertLine_worldMove a s).trans (now_worldMove _)).block.eq_withWorld
  have heng : (assertLine a s).eng = (setLine a true s).eng := (assertLine_worldMove a s).eng
  simp only [assertPulse, setAct, now_withEng, hnow, heng]
  rw [← now_clock]
  rfl

section
variable (a : BusAction) (s : State)

theorem assertLine_mem : (assertLine a s).world.mem = s.world.mem := by cases a <;> rfl

theorem assertLine_calls : (assertLine a s).world.calls = s.world.calls := by cases a <;> rfl

theorem assertLine_clock : (assertLine a s).world.clock = s.world.clock := by cases a <;> rfl

theorem assertedWorld_mem : (assertedWorld a s).mem = s.world.mem :=
  (now_mem _).trans (assertLine_mem a s)

theorem assertedWorld_calls : (assertedWorld a s).calls = s.world.calls :=
  (now_calls _).trans (assertLine_calls a s)

theorem clock_le_assertedWorld : s.world.clock ≤ (assertedWorld a s).clock := by
  have hle := now_le (assertLine a s)
  rwa [assertLine_clock, ← now_clock] at hle

end

/-- Asserting NMI or INT does nothing to the world. -/
theorem assertedWorld_of_ne_reset {p : Pulse} (hp : p ≠ .reset) (s : State) :
    assertedWorld (actionOfPulse p) s = (now s).2.world := by
  cases p with
  | reset => exact absurd rfl hp
  | nmi => exact (congrArg (fun r : Nat × State => r.2.world) (now_withEng { s.eng with lineNmi := true } s) :)
  | irq => exact (congrArg (fun r : Nat × State => r.2.world) (now_withEng { s.eng with lineIrq := true } s) :)

/-- The Z80 begins at 0x0000 with interrupts disabled, in mode 0 (70_reset_and_hazards.md R453). -/
theorem assertedWorld_reset (s : State) :
    (assertedWorld .reset s).z80.regs.pc = 0 ∧ (assertedWorld .reset s).z80.regs.im = .im0 ∧
    (assertedWorld .reset s).z80.regs.iff1 = false ∧ (assertedWorld .reset s).z80.regs.iff2 = false ∧
    (assertedWorld .reset s).z80.rx = [] ∧ (assertedWorld .reset s).z80.wr = 0 := by
  have hz : (assertedWorld .reset s).z80 = (z80Reset (setLine .reset true s)).world.z80 := now_z80 _
  rw [hz]
  exact ⟨rfl, rfl, rfl, rfl, rfl, rfl⟩

/-- Among the lines, the assert of a pulse sets its own. -/
theorem setLine_pulse (p : Pulse) (s : State) :
    (setLine (actionOfPulse p) true s).eng = { s.eng with
      lineReset := s.eng.lineReset || decide (p = .reset)
      lineNmi := s.eng.lineNmi || decide (p = .nmi)
      lineIrq := s.eng.lineIrq || decide (p = .irq) } := by
  cases p <;> simp [setLine, actionOfPulse]

/-- START_PENDING of a Reset, NMI or IRQ asserts it for the duration that its socket asks for. -/
theorem startPending_pulse {s : State} {p : Pulse} (hst : s.eng.act.status = .pending)
    (ha : s.eng.act.action = actionOfPulse p) :
    startPending s =
      assertPulse (actionOfPulse p) ((sockAt s s.eng.act.socket).durationOf p) s := by
  rw [startPending, if_neg (not_not.mpr hst), ha]
  cases p <;> rfl

/-! ### The tick that asserts a pulse -/

/-- What a tick does from `w` that takes the Reset, NMI or IRQ that socket `h` asks for. -/
abbrev PulseTaken (w : State) (h : Nat) (p : Pulse) (reason : Byte) (t : State) : Prop :=
  t.eng = { w.eng with
    sock := w.eng.sock.set h { sockAt w h with actionRequest := none }
    lineReset := w.eng.lineReset || decide (p = .reset)
    lineNmi := w.eng.lineNmi || decide (p = .nmi)
    lineIrq := w.eng.lineIrq || decide (p = .irq)
    act := { status := .asserted, action := actionOfPulse p, socket := h, reason := reason
             startTime := (now w).1, assertedAt := t.world.clock
             durationUs := (sockAt w h).durationOf p } } ∧
  (now w).1 ≤ t.world.clock ∧ t = ((w.withEng t.eng).withWorld t.world).answer okNone ∧
  t.world.mem = w.world.mem ∧ t.world.calls = w.world.calls ∧
  (p ≠ .reset → t.world = (now (now w).2).2.world) ∧
  (p = .reset →
    t.world.z80.regs.pc = 0 ∧ t.world.z80.regs.im = .im0 ∧ t.world.z80.regs.iff1 = false ∧
    t.world.z80.regs.iff2 = false ∧ t.world.z80.rx = [] ∧ t.world.z80.wr = 0)

/-- The taken request is asserted at once (42_bus_actions.md R212, R213). -/
theorem pulseTaken {w : State} {h : Nat} {p : Pulse} {reason : Byte} (hst : w.eng.act.status = .none)
    (hm : w.eng.mastered = false) (hl : h < w.eng.sock.length) (hh : h < w.eng.numSockets)
    (hfirst : FirstRequest h w) (hreq : (sockAt w h).actionRequest = some (p, reason)) :
    PulseTaken w h p reason ((startPending (checkPending w)).2.answer okNone) := by
  set x := w.taking h { sockAt w h with actionRequest := none } (actionOfPulse p) reason with hx
  have hcheck : checkPending w = x := checkPending_pulse hst hm hh hfirst hreq
  have hsock : sockAt x x.eng.act.socket = { sockAt w h with actionRequest := none } :=
    taking_sockAt hl _ _ _
  have hworld : x.world = (now w).2.world := rfl
  have hblock : (now w).2 = w.withWorld (now w).2.world := (now_worldMove w).block.eq_withWorld
  rw [hcheck, startPending_pulse (p := p) rfl rfl, assertPulse_state, hsock, setLine_pulse]
  refine ⟨?_, ?_, ?_, ?_, ?_, fun hp => ?_, ?_⟩
  · cases p <;> rfl
  · rw [← now_clock, ← hworld]
    exact clock_le_assertedWorld _ x
  · rw [hx, State.taking, hblock]
    rfl
  · exact (assertedWorld_mem _ x).trans (now_mem w)
  · exact (assertedWorld_calls _ x).trans (now_calls w)
  · refine (assertedWorld_of_ne_reset hp x).trans ?_
    rw [hx, State.taking, now_withEng]
    rfl
  · rintro rfl
    exact assertedWorld_reset x

end Sys2Proof.Machine
end

section
/-! SUPPORT. A BusRequest taken by a tick, with and without BUSACK (42_bus_actions.md R216), and the action half
of a tick (41_wait_service.md R170). -/

namespace Sys2Proof.Machine

/-! ### The poll for BUSACK does not look at the port -/

section
variable (p : Port) (s : State)

theorem now_withPort : now (s.withPort p) = ((now s).1, (now s).2.withPort p) := by
  cases h : s.world.timeDraws <;> simp only [now, State.withPort_world, h] <;> rfl

theorem pollBusack_withPort :
    pollBusack (s.withPort p) = ((pollBusack s).1, (pollBusack s).2.withPort p) := by
  cases h : s.world.busackDraws <;> simp only [pollBusack, sampleBusack, State.withPort_world, h] <;> rfl

theorem busackLoop_withPort (fuel t0 : Nat) : busackLoop fuel t0 (s.withPort p) =
    ((busackLoop fuel t0 s).1, (busackLoop fuel t0 s).2.withPort p) := by
  induction fuel generalizing s with
  | zero => rfl
  | succ fuel ih =>
    simp only [busackLoop, pollBusack_withPort]
    obtain ⟨_ | _, s1⟩ := pollBusack s
    · simp only [now_withPort, State.withPort_cfg]
      split
      · rfl
      · exact ih _
    · rfl

theorem awaitBusack_withPort : awaitBusack (s.withPort p) =
    ((awaitBusack s).1, (awaitBusack s).2.withPort p) := by
  have hline : assertLine .busRequest (s.withPort p) = (assertLine .busRequest s).withPort p := rfl
  simp only [awaitBusack, hline, now_withPort]
  exact busackLoop_withPort p _ _ _

end

/-! ### The bus lent to the callbacks -/

/-- The state in which the callbacks of a BusRequest begin that was granted in `b`. -/
def State.lent (b : State) : State := clearAction (takeMastership b)

theorem lent_lendsBus {b : State} (hb : b.eng.lineBusrq = true) : LendsBus b b.lent := by
  rw [State.lent, takeMastership_frame]
  exact ⟨rfl, hb, rfl, rfl, rfl, rfl, rfl, rfl, rfl, rfl, rfl, rfl, rfl⟩

section
variable {m : State} (reason : Byte)

/-- Under the engine's mastership the callbacks of a BusRequest stay within the frame. -/
theorem completeAll_busRequest_frame (hm : m.eng.mastered = true) (hands : List Nat) :
    CallbackFrame m (completeAll .busRequest reason .ok hands m) :=
  (CallbackStable.of_frame (P := CallbackFrame m) CallbackFrame.trans).completeAll (CallbackFrame.refl m)
    (fun _ _ => transferStable_of_mastered fun _ h => h.mastered.trans hm) reason hands

theorem lent_masteredThroughout {b : State} (hb : b.eng.lineBusrq = true) :
    MasteredThroughout reason b.lent := by
  intro n
  have hframe := completeAll_busRequest_frame reason (m := b.lent) rfl (List.range n)
  exact ⟨hframe.mastered, (congrArg Engine.lineBusrq hframe.engine :).trans hb, hframe.act⟩

end

/-! ### A BusRequest that is taken -/

/-- START_PENDING of a BusRequest is the handshake. -/
theorem startPending_bus {s : State} (hst : s.eng.act.status = .pending)
    (ha : s.eng.act.action = .busRequest) : startPending s = busRequestHandshake s := by
  rw [startPending, if_neg (not_not.mpr hst), ha]

/-- With BUSACK every socket is called while the engine lends the bus, which is then given back. -/
theorem busRequestHandshake_granted {s : State} (h : (awaitBusack s).1 = true) :
    (busRequestHandshake s).2 = releaseMastership (notifyAll .busRequest s.eng.act.reason .ok
      (awaitBusack s).2.lent) := by
  have hpair : awaitBusack s = (true, (awaitBusack s).2) := Prod.ext h rfl
  rw [busRequestHandshake, hpair]
  rfl

/-- Without BUSACK it is no longer asked for, and every socket is told. -/
theorem busRequestHandshake_failed {s : State} (h : (awaitBusack s).1 = false) :
    (busRequestHandshake s).2 = notifyAll .busRequest s.eng.act.reason .busRequestFailed
      (clearAction (deassertLine .busRequest (awaitBusack s).2)) := by
  have hpair : awaitBusack s = (false, (awaitBusack s).2) := Prod.ext h rfl
  rw [busRequestHandshake, hpair]

/-- The poll for BUSACK makes no call and leaves the tracker and memory. -/
structure OnlyPolled (s b : State) : Prop where
  eng : b.eng = { s.eng with lineBusrq := true }
  trk : b.trk = s.trk
  mem : b.world.mem = s.world.mem
  calls : b.world.calls = s.world.calls

theorem awaitBusack_onlyPolled (s : State) : OnlyPolled s (awaitBusack s).2 :=
  ⟨awaitBusack_eng s, (awaitBusack_transferFrame s).trk, (awaitBusack_onlyTime s).mem,
    (awaitBusack_transferFrame s).calls⟩

section
variable {s : State} (hs : SocketsOk s) (reason : Byte)
include hs

theorem socketsOk_lent : SocketsOk (awaitBusack s).2.lent :=
  (TableKept.clearAction (TableKept.takeMastership
    (TableKept.awaitBusack (c := s.cfg) (n := s.eng.numSockets) ⟨hs, rfl, le_refl _⟩))).1

theorem socketsOk_unacknowledged : SocketsOk (clearAction (deassertLine .busRequest (awaitBusack s).2)) :=
  (TableKept.clearAction (TableKept.deassertLine
    (TableKept.awaitBusack (c := s.cfg) (n := s.eng.numSockets) ⟨hs, rfl, le_refl _⟩) _)).1

end

/-- What is left after the callbacks of a granted BusRequest, when the bus has been given back. -/
theorem granted_leaves {s b : State} (hb : OnlyPolled s b) (hlent : SocketsOk b.lent) (reason : Byte)
    {t : State} (ht : t = releaseMastership (notifyAll .busRequest reason .ok b.lent)) :
    t.eng.act = BusActionState.cleared ∧ t.eng.mastered = false ∧ t.eng.lineBusrq = false ∧
    t.eng.busDriven = false ∧ t.eng.skipRefreshPrimed = true ∧
    t.eng.numSockets = s.eng.numSockets ∧ waitCalls t = waitCalls s ∧
    doneCalls t = allNotified .busRequest reason .ok s.eng.numSockets ++ doneCalls s ∧
    t.trk = if reason = mirrorReason then { s.trk with mirror := s.world.mem, mirrorValid := true }
      else s.trk := by
  obtain ⟨heng, htrk, hmem, hcalls⟩ := hb
  have hframe := notifyAll_callbackFrame (a := .busRequest) (o := .ok) (s := b.lent) reason fun _ _ => rfl
  have hnum : b.lent.eng.numSockets = s.eng.numSockets := (congrArg Engine.numSockets heng :)
  rw [ht, releaseMastership_frame]
  refine ⟨hframe.act, rfl, rfl, rfl, rfl, ?_, ?_, ?_, ?_⟩
  · exact (congrArg Engine.numSockets hframe.engine :).trans hnum
  · exact (notifyAll_waitCalls _ _ _ _).trans (congrArg (List.filter CallRecord.isWait) hcalls)
  · refine (notifyAll_doneCalls _ _ _ _).trans ?_
    rw [hnum]
    exact congrArg (_ ++ List.filter CallRecord.isComplete ·) hcalls
  · refine (notifyAll_trk _ _ _ hlent).trans ?_
    rw [trackerOnComplete_granted_trk reason rfl, ← hmem, ← htrk]
    rfl

/-- What is left after the callbacks of a BusRequest that failed. -/
theorem failed_leaves {s b : State} (hb : OnlyPolled s b)
    (hidle : SocketsOk (clearAction (deassertLine .busRequest b))) (reason : Byte) {t : State}
    (ht : t = notifyAll .busRequest reason .busRequestFailed (clearAction (deassertLine .busRequest b))) :
    t.eng.act = BusActionState.cleared ∧ t.eng.mastered = s.eng.mastered ∧ t.eng.lineBusrq = false ∧
    t.eng.skipRefreshPrimed = s.eng.skipRefreshPrimed ∧ t.eng.numSockets = s.eng.numSockets ∧
    t.world.mem = s.world.mem ∧ waitCalls t = waitCalls s ∧
    doneCalls t = allNotified .busRequest reason .busRequestFailed s.eng.numSockets ++ doneCalls s ∧
    t.trk = if reason = mirrorReason then { s.trk with mirrorValid := false } else s.trk := by
  obtain ⟨heng, htrk, hmem, hcalls⟩ := hb
  have hend : ActionEnds .busRequest reason .busRequestFailed
      (if reason = mirrorReason then { b.trk with mirrorValid := false } else b.trk)
      (deassertLine .busRequest b) t := by
    rw [ht]
    exact .clear_notify (by decide) hidle fun v hv => by
      rw [trackerOnComplete_failed_trk, hv, deassertLine_trk]
  have hdone := hend.doneCalls
  have hwait := hend.waitCalls
  simp only [doneCalls, waitCalls, deassertLine_world, deassertLine_eng_numSockets, hcalls, heng]
    at hdone hwait
  refine ⟨hend.act, ?_, hend.lineBusrq, ?_, ?_, ?_, hwait, hdone, ?_⟩
  · rw [hend.mastered, deassertLine_eng_mastered, heng]
  · rw [hend.skipRefreshPrimed, deassertLine_eng_skipRefreshPrimed, heng]
  · rw [hend.numSockets, deassertLine_eng_numSockets, heng]
  · rw [hend.mem, deassertLine_world, hmem]
  · rw [hend.trk, htrk]

/-- What a tick does from `w` that takes a BusRequest for `reason`; `v` is the state in which it is taken. -/
abbrev BusRequestTaken (w : State) (reason : Byte) (v t : State) : Prop :=
  t.port.result = okNone ∧ exec .checkPending w = .next v ∧
  t.eng.act = BusActionState.cleared ∧ t.eng.mastered = false ∧ t.eng.lineBusrq = false ∧
  t.eng.numSockets = w.eng.numSockets ∧ waitCalls t = waitCalls w ∧
  ((awaitBusack v).1 = true →
    t.eng.busDriven = false ∧ t.eng.skipRefreshPrimed = true ∧
    doneCalls t = allNotified .busRequest reason .ok w.eng.numSockets ++ doneCalls w ∧
    t.trk =
      (if reason = mirrorReason then { w.trk with mirror := w.world.mem, mirrorValid := true }
       else w.trk) ∧
    ∃ m, LendsBus (awaitBusack v).2 m ∧ MasteredThroughout reason m ∧
      t = (releaseMastership (notifyAll .busRequest reason .ok m)).answer okNone) ∧
  ((awaitBusack v).1 = false →
    t.world.mem = w.world.mem ∧ t.eng.skipRefreshPrimed = w.eng.skipRefreshPrimed ∧
    doneCalls t =
      allNotified .busRequest reason .busRequestFailed w.eng.numSockets ++ doneCalls w ∧
    t.trk =
      if reason = mirrorReason then { w.trk with mirrorValid := false } else w.trk)

/-- The taken BusRequest is resolved at once (42_bus_actions.md R212, R216). -/
theorem busRequestTaken {w : State} (hw : SocketsOk w) {h : Nat} {reason : Byte}
    (hst : w.eng.act.status = .none) (hm : w.eng.mastered = false) (hh : h < w.eng.numSockets)
    (hfirst : FirstRequest h w) (hno : (sockAt w h).actionRequest = none)
    (hreq : (sockAt w h).busMasterRequest = some reason) :
    BusRequestTaken w reason ((checkPending w).answer okNone)
      ((startPending (checkPending w)).2.answer okNone) := by
  have htable : TableKept w.cfg w.eng.numSockets w := ⟨hw, rfl, le_refl _⟩
  have hx : SocketsOk (checkPending w) := htable.checkPending.1
  have hexec : exec .checkPending w = .next ((checkPending w).answer okNone) := rfl
  rw [checkPending_bus hst hm hh hfirst hno hreq] at hexec hx ⊢
  set x := w.taking h { sockAt w h with busMasterRequest := none } .busRequest reason
  have hwait : waitCalls x = waitCalls w := congrArg (List.filter CallRecord.isWait) (now_calls w)
  have hdone : doneCalls x = doneCalls w := congrArg (List.filter CallRecord.isComplete) (now_calls w)
  have hpolled := awaitBusack_onlyPolled x
  have hpoll : awaitBusack (x.answer okNone) = ((awaitBusack x).1,
      (awaitBusack x).2.withPort { x.port with result := okNone }) := awaitBusack_withPort _ x
  have hline : (awaitBusack x).2.eng.lineBusrq = true := by rw [hpolled.eng]
  have htrk : x.trk = w.trk := now_trk w
  have hmem : x.world.mem = w.world.mem := now_mem w
  have hreason : x.eng.act.reason = reason := rfl
  rw [startPending_bus rfl rfl]
  unfold BusRequestTaken
  rw [hpoll]
  cases hb : (awaitBusack x).1 with
  | true =>
    rw [busRequestHandshake_granted hb, hreason]
    generalize ht : releaseMastership (notifyAll .busRequest reason .ok (awaitBusack x).2.lent) = t
    obtain ⟨hcleared, hmast, hbusrq, hdriven, hskip, hnum, hwc, hdc, hk⟩ :=
      granted_leaves hpolled (socketsOk_lent hx) reason ht.symm
    rw [hdone] at hdc
    rw [htrk, hmem] at hk
    exact ⟨rfl, hexec, hcleared, hmast, hbusrq, hnum, hwc.trans hwait, fun _ => ⟨hdriven, hskip, hdc, hk,
      (awaitBusack x).2.lent, lent_lendsBus hline, lent_masteredThroughout reason hline, by rw [ht]⟩,
      nofun⟩
  | false =>
    rw [busRequestHandshake_failed hb, hreason]
    generalize ht : notifyAll .busRequest reason .busRequestFailed
      (clearAction (deassertLine .busRequest (awaitBusack x).2)) = t
    obtain ⟨hcleared, hmast, hbusrq, hskip, hnum, hmemt, hwc, hdc, hk⟩ :=
      failed_leaves hpolled (socketsOk_unacknowledged hx) reason ht.symm
    rw [hdone] at hdc
    rw [htrk] at hk
    exact ⟨rfl, hexec, hcleared, hmast.trans hm, hbusrq, hnum, hwc.trans hwait, nofun,
      fun _ => ⟨hmemt.trans hmem, hskip, hdc, hk⟩⟩

end Sys2Proof.Machine
end

section
/-! SUPPORT. The action half of a tick, from what its wait half leaves (41_wait_service.md R170). -/

namespace Sys2Proof.Machine

/-! ### The action in progress -/

section
variable {u : State}

/-- A Reset, NMI or IRQ within its duration and the global timeout goes on. -/
theorem advance_pulse_running {p : Pulse} (hst : u.eng.act.status = .asserted)
    (ha : u.eng.act.action = actionOfPulse p)
    (hd : (now u).1 - u.eng.act.assertedAt < u.eng.act.durationUs)
    (ht : (now (now u).2).1 - u.eng.act.startTime ≤ u.cfg.actionTimeoutUs) :
    actionTimeoutCheck (advancePending u) = (now (now u).2).2 := by
  rw [advancePending_running hst (by rw [ha, isPulse_actionOfPulse]) hd]
  exact actionTimeoutCheck_within (by simp [hst]) (by simpa using ht)

theorem advance_pending_within (hst : u.eng.act.status = .pending)
    (ht : (now u).1 - u.eng.act.startTime ≤ u.cfg.actionTimeoutUs) :
    actionTimeoutCheck (advancePending u) = (now u).2 := by
  rw [advancePending_idle (by simp [hst]), actionTimeoutCheck_within (by simp [hst]) ht]

end

/-! ### The tick -/

section
variable {s : State}

/-- A tick that begins no action ends with the state in which the action in progress has been looked at. -/
theorem serviceTick_begins_none
    (h : (afterAdvance s).eng.wait.asserted = true ∨ (afterAdvance s).eng.act.status = .asserted ∨
      (afterAdvance s).eng.act.status = .none ∧
        ((afterAdvance s).eng.mastered = true ∨ NoActions (afterAdvance s))) :
    exec .serviceTick s = .next ((afterAdvance s).answer okNone) := by
  have hcheck : (afterAdvance s).eng.wait.asserted = false →
      (startPending (checkPending (afterAdvance s))).2 = afterAdvance s := by
    intro hw
    rcases h with h | h | ⟨h, hm | hno⟩
    · exact absurd (hw.symm.trans h) Bool.false_ne_true
    · rw [checkPending_busy (by simp [h]), startPending_idle (by simp [h])]
    · rw [checkPending_mastered hm, startPending_idle (by simp [h])]
    · rw [checkPending_noRequest hno, startPending_idle (by simp [h])]
  rw [exec_serviceTick]
  cases hw : (afterAdvance s).eng.wait.asserted with
  | true =>
    rw [tickActions_of_asserted hw]
    rfl
  | false =>
    rw [tickActions_of_released hw]
    exact congrArg (fun t : State => Host.Outcome.next (t.answer okNone)) (hcheck hw)

/-- With no wait asserted a tick goes on with the request that is taken. -/
theorem exec_serviceTick_released (hw : (afterAdvance s).eng.wait.asserted = false) :
    exec .serviceTick s =
      .next ((startPending (checkPending (afterAdvance s))).2.answer okNone) := by
  rw [exec_serviceTick, tickActions_of_released hw]
  rfl

theorem serviceTick_starts_pending {t' : State} (hw : (afterAdvance s).eng.wait.asserted = false)
    (hst : (afterAdvance s).eng.act.status = .pending)
    (ht : exec .startPending (afterAdvance s) = .next t') :
    exec .serviceTick s = .next (t'.answer okNone) := by
  have hstart : exec .startPending (afterAdvance s) =
      .next ((startPending (afterAdvance s)).2.answer (startPending (afterAdvance s)).1) := rfl
  rw [exec_serviceTick_released hw, checkPending_busy (by simp [hst])]
  cases hstart.symm.trans ht
  rfl

theorem socketsOk_afterWait (hs : SocketsOk s) : SocketsOk (afterWait s) :=
  have hk := TableKept.stepStable s.cfg s.eng.numSockets
  (hk.wait (hk.diag ⟨hs, rfl, le_refl _⟩)).1

theorem socketsOk_afterAdvance (hs : SocketsOk s) : SocketsOk (afterAdvance s) :=
  have hk := TableKept.stepStable s.cfg s.eng.numSockets
  (hk.timeout (hk.advance (hk.wait (hk.diag ⟨hs, rfl, le_refl _⟩)))).1

end

/-- Settles O28: the action in progress ends as `ActionEnds` says, and the tick begins the action that the
lowest handle asks for. -/
theorem tickTakesAndEndsActions : Obligations.TickTakesAndEndsActions := by
  intro s u w hs hu hw
  have huok : SocketsOk u := hu ▸ socketsOk_afterWait hs
  have hwok : SocketsOk w := hw ▸ socketsOk_afterAdvance hs
  have hadv : w = actionTimeoutCheck (advancePending u) := by rw [hw, hu]; rfl
  refine ⟨fun ha hdetect => ?_, fun hst => ?_, fun p hst ha => ⟨fun hd ht => ?_, fun o ho => ?_⟩,
    fun hst => ⟨fun ht => ?_, fun ht => ?_⟩, ?_, ?_, ?_⟩
  · subst hu
    obtain ⟨hengine, hcounters, htrk, hbp, hcfg, hport, hworld⟩ := afterWait_undetected ha hdetect
    exact ⟨hengine, hcounters, htrk, hbp, hcfg, hport, hworld⟩
  · rw [hadv, advance_of_no_action hst]
  · rw [hadv, advance_pulse_running hst ha hd ht]
  · have hend := ActionEnds.pulse huok hst ha ho
    rw [← hadv] at hend
    obtain ⟨hreset, hnmi, hirq, hbusrq⟩ := deassertLine_pulse p u
    exact ⟨hend.act, hend.lineReset.trans hreset, hend.lineNmi.trans hnmi, hend.lineIrq.trans hirq,
      hend.lineBusrq.trans hbusrq, hend.mastered.trans (by simp), hend.counters.trans (by simp),
      hend.asserted.trans (by simp), hend.mem.trans (by simp), hend.z80.trans (by simp),
      hend.present.trans (by simp), hend.waitCalls.trans (by simp [waitCalls]),
      hend.doneCalls.trans (by simp [doneCalls]), hend.trk⟩
  · rw [hadv, advance_pending_within hst ht]
  · have hend := ActionEnds.pending huok hst ht
    rw [← hadv] at hend
    exact ⟨hend.act, hend.lineReset, hend.lineNmi, hend.lineIrq, hend.lineBusrq, hend.mastered, hend.counters,
      hend.asserted, hend.mem, hend.z80, hend.present, hend.waitCalls, hend.doneCalls, hend.trk⟩
  · rw [hw]
    exact serviceTick_begins_none
  · rw [hw]
    exact fun t' => serviceTick_starts_pending
  · intro hreleased hst hm h reason hh hfirst
    have htick : exec .serviceTick s = .next ((startPending (checkPending w)).2.answer okNone) := by
      rw [hw] at hreleased ⊢
      exact exec_serviceTick_released hreleased
    exact ⟨fun p hreq => ⟨_, htick, pulseTaken hst hm (hwok.1.lt_length hh) hh hfirst hreq⟩,
      fun hno hreq => ⟨_, _, htick, busRequestTaken hwok hst hm hh hfirst hno hreq⟩⟩

end Sys2Proof.Machine
end

section
/-! SUPPORT. The arbiter's commands (42_bus_actions.md R212 to R214): what each answers, where it does
nothing, which request it takes, and the Reset, NMI or IRQ that it asserts and ends. -/

namespace Sys2Proof.Machine

/-! ### The commands' words -/

theorem exec_checkPending (s : State) : exec .checkPending s = .next ((checkPending s).answer okNone) := rfl

theorem exec_startPending (s : State) :
    exec .startPending s = .next ((startPending s).2.answer (startPending s).1) := rfl

theorem exec_advancePending (s : State) :
    exec .advancePending s = .next ((advancePending s).answer okNone) := rfl

/-! ### Nothing to do -/

theorem isPulse_eq_false_iff {a : BusAction} : isPulse a = false ↔ a = .none ∨ a = .busRequest := by
  cases a <;> decide

/-- Settles O21: each command finds its guard closed. -/
theorem arbiterNoOps : Obligations.ArbiterNoOps := by
  intro s
  refine ⟨fun h => ?_, fun h => ?_, fun h => ?_⟩
  · have hidle : checkPending s = s := by
      rcases h with hbusy | hm | hno
      · exact checkPending_busy hbusy
      · exact checkPending_mastered hm
      · exact checkPending_noRequest hno
    rw [exec_checkPending, hidle]
  · rw [exec_startPending, startPending_idle h]
  · rw [exec_advancePending, advancePending_idle (h.imp_right isPulse_eq_false_iff.mpr)]

/-! ### The request that is taken -/

/-- Taking a request changes the engine, and the world by one read of the time. -/
theorem taking_frame (h : Nat) (k : Socket) (a : BusAction) (reason : Byte) (s : State) :
    s.taking h k a reason = (s.withEng (s.taking h k a reason).eng).withWorld (now s).2.world := by
  have hblock : (now s).2 = s.withWorld (now s).2.world := (now_worldMove s).block.eq_withWorld
  rw [State.taking, hblock]
  rfl

/-- Settles O22: the scan comes to the lowest handle, and there to the Reset, NMI or IRQ first. -/
theorem checkPendingTakesLowest : Obligations.CheckPendingTakesLowest := by
  intro s h _ hst hm hh hfirst
  refine ⟨fun p reason hreq => ⟨_, exec_checkPending s, ?_⟩,
    fun reason hno hreq => ⟨_, exec_checkPending s, ?_⟩⟩
  · rw [checkPending_pulse hst hm hh hfirst hreq]
    exact ⟨rfl, rfl, congrArg (State.answer okNone) (taking_frame ..)⟩
  · rw [checkPending_bus hst hm hh hfirst hno hreq]
    exact ⟨rfl, rfl, congrArg (State.answer okNone) (taking_frame ..)⟩

/-! ### A Reset, NMI or IRQ -/

/-- Settles O23: the assert writes the line and the action, and for RESET the Z80 restarts. -/
theorem startPendingAssertsPulse : Obligations.StartPendingAssertsPulse := by
  intro s p hst ha
  refine ⟨_, exec_startPending s, ?_⟩
  rw [startPending_pulse hst ha, assertPulse_state, setLine_pulse]
  refine ⟨?_, clock_le_assertedWorld _ s, rfl, assertedWorld_mem _ s, assertedWorld_calls _ s,
    fun hp => assertedWorld_of_ne_reset hp s, ?_⟩
  · cases p <;> rfl
  · rintro rfl
    exact assertedWorld_reset s

/-- Settles O26: the command reads the time, and at the duration the action ends as `ActionEnds` says. -/
theorem advancePendingEnds : Obligations.AdvancePendingEnds := by
  intro s p hs hst ha
  have hp : isPulse s.eng.act.action = true := by rw [ha, isPulse_actionOfPulse]
  refine ⟨fun hd => ?_, fun hd => ⟨_, exec_advancePending s, rfl, ?_⟩⟩
  · rw [exec_advancePending, advancePending_running hst hp hd]
  · have hnone : (advancePending s).eng.act.status = .none := by
      rw [advancePending_ended hst hp hd]
      rfl
    have hend := ActionEnds.pulse hs hst ha (.inl ⟨rfl, hd⟩)
    rw [actionTimeoutCheck_idle hnone] at hend
    have hok : SocketsOk (advancePending s) :=
      (TableKept.advancePending (c := s.cfg) (n := s.eng.numSockets) ⟨hs, rfl, le_refl _⟩).1
    obtain ⟨hreset, hnmi, hirq, hbusrq⟩ := deassertLine_pulse p s
    exact ⟨hend.act, hend.lineReset.trans hreset, hend.lineNmi.trans hnmi, hend.lineIrq.trans hirq,
      hend.lineBusrq.trans hbusrq, hend.mastered.trans (by simp), hok, hend.numSockets.trans (by simp),
      hend.counters.trans (by simp), hend.mem.trans (by simp), hend.z80.trans (by simp),
      hend.present.trans (by simp), hend.waitCalls.trans (by simp [waitCalls]),
      hend.doneCalls.trans (by simp [doneCalls]), hend.trk⟩

end Sys2Proof.Machine
end

section
/-! SUPPORT. START_PENDING of a BusRequest, with and without BUSACK (42_bus_actions.md R216). -/

namespace Sys2Proof.Machine

section
variable {s : State}

/-- The result says whether BUSACK was seen. -/
theorem busRequestHandshake_result (s : State) :
    (busRequestHandshake s).1 = if (awaitBusack s).1 then okNone else .noBusAck := by
  unfold busRequestHandshake
  simp only
  split <;> (rename_i heq; rw [heq]; rfl)

theorem exec_startPending_granted (hst : s.eng.act.status = .pending)
    (ha : s.eng.act.action = .busRequest) (hb : (awaitBusack s).1 = true) :
    exec .startPending s = .next ((releaseMastership (notifyAll .busRequest s.eng.act.reason .ok
      (awaitBusack s).2.lent)).answer okNone) := by
  rw [exec_startPending, startPending_bus hst ha, busRequestHandshake_granted hb,
    busRequestHandshake_result, if_pos hb]

theorem exec_startPending_failed (hst : s.eng.act.status = .pending)
    (ha : s.eng.act.action = .busRequest) (hb : (awaitBusack s).1 = false) :
    exec .startPending s = .next ((notifyAll .busRequest s.eng.act.reason .busRequestFailed
      (clearAction (deassertLine .busRequest (awaitBusack s).2))).answer .noBusAck) := by
  rw [exec_startPending, startPending_bus hst ha, busRequestHandshake_failed hb,
    busRequestHandshake_result, hb]
  rfl

theorem socketsOk_startPending (hs : SocketsOk s) {t : State} (h : exec .startPending s = .next t) :
    SocketsOk t :=
  ((TableKept.stepStable s.cfg s.eng.numSockets).exec .startPending ⟨hs, rfl, le_refl _⟩ h).1

/-- After the bus was lent and given back, the engine but for its slots is as before the request. -/
theorem granted_sansSlots {b : State} (hb : OnlyPolled s b) (reason : Byte) :
    (releaseMastership (notifyAll .busRequest reason .ok b.lent)).eng.sansSlots =
      { s.eng with
        act := BusActionState.cleared, mastered := false, lineBusrq := false, busDriven := false
        skipRefreshPrimed := true }.sansSlots := by
  have hframe := notifyAll_callbackFrame (a := .busRequest) (o := .ok) (s := b.lent) reason fun _ _ => rfl
  have hlent : b.lent.eng.sansSlots =
      { s.eng with
        act := BusActionState.cleared, mastered := true, lineBusrq := true, busDriven := true }.sansSlots :=
    (congrArg (fun e : Engine =>
      { e with act := BusActionState.cleared, mastered := true, busDriven := true }.sansSlots) hb.eng :)
  have hgiven := congrArg (fun e : Engine =>
    { e with mastered := false, lineBusrq := false, busDriven := false, skipRefreshPrimed := true })
    (hframe.engine.trans hlent)
  rw [releaseMastership_frame]
  exact hgiven

/-- The callbacks of a failed BusRequest begin with BUSRQ deasserted and the action cleared. -/
theorem unacknowledged_eq (s : State) : clearAction (deassertLine .busRequest (awaitBusack s).2) =
    (awaitBusack s).2.withEng { s.eng with lineBusrq := false, act := BusActionState.cleared } := by
  have hb : clearAction (deassertLine .busRequest (awaitBusack s).2) = (awaitBusack s).2.withEng
      { (awaitBusack s).2.eng with lineBusrq := false, act := BusActionState.cleared } := rfl
  rw [hb, awaitBusack_eng]

end

/-- Settles O24: the bus is lent to the callbacks (`LendsBus`) and given back after them. -/
theorem busRequestGranted : Obligations.BusRequestGranted := by
  intro s hs hst ha _ hb
  have hexec := exec_startPending_granted hst ha hb
  have hpolled := awaitBusack_onlyPolled s
  have hline : (awaitBusack s).2.eng.lineBusrq = true := by rw [hpolled.eng]
  have heng := granted_sansSlots hpolled s.eng.act.reason
  have hok := socketsOk_startPending hs hexec
  refine ⟨_, hexec, rfl, ?_⟩
  generalize ht : releaseMastership (notifyAll .busRequest s.eng.act.reason .ok (awaitBusack s).2.lent) = t
    at heng hok ⊢
  obtain ⟨hact, hmast, hbusrq, hdriven, hskip, hnum, hwait, hdone, htrk⟩ :=
    granted_leaves hpolled (socketsOk_lent hs) s.eng.act.reason ht.symm
  exact ⟨hact, hmast, hbusrq, hdriven, hskip, hok, (congrArg Engine.lineReset heng :),
    (congrArg Engine.lineNmi heng :), (congrArg Engine.lineIrq heng :), (congrArg Engine.counters heng :),
    hnum, hwait, hdone, fun hr => htrk.trans (if_pos hr), fun hr => htrk.trans (if_neg hr),
    (awaitBusack s).2.lent, lent_lendsBus hline, lent_masteredThroughout _ hline, by rw [ht]⟩

/-- Settles O25: BUSRQ and the action are gone before the callbacks hear of the failure. -/
theorem busRequestFails : Obligations.BusRequestFails := by
  intro s hs hst ha hm hb
  have hexec := exec_startPending_failed hst ha hb
  obtain ⟨hact, hmast, hbusrq, hskip, hnum, hmem, hwait, hdone, htrk⟩ :=
    failed_leaves (awaitBusack_onlyPolled s) (socketsOk_unacknowledged hs) s.eng.act.reason rfl
  exact ⟨_, hexec, rfl, hact, hmast.trans hm, hbusrq, hskip, socketsOk_startPending hs hexec, hnum, hmem,
    hwait, hdone, fun hr => htrk.trans (if_pos hr), fun hr => htrk.trans (if_neg hr),
    _, unacknowledged_eq s, rfl⟩

end Sys2Proof.Machine
end

section
/-! SUPPORT. The global bound on an action in progress, in a tick that keeps a held cycle (42_bus_actions.md
R217). -/

namespace Sys2Proof.Machine

/-- From `u`, at a `time`, the action in progress goes on within the global bound, and past it ends with
ActionTimedOut and its line deasserted. -/
abbrev GoesOnOrTimesOut (time : Nat) (u t : State) : Prop :=
  (time - u.eng.act.startTime ≤ u.cfg.actionTimeoutUs →
    t.eng.act = u.eng.act ∧ doneCalls t = doneCalls u) ∧
  (u.cfg.actionTimeoutUs < time - u.eng.act.startTime →
    t.eng.act = BusActionState.cleared ∧
    (u.eng.act.status = .asserted → u.eng.act.action = .reset → t.eng.lineReset = false) ∧
    (u.eng.act.status = .asserted → u.eng.act.action = .nmi → t.eng.lineNmi = false) ∧
    (u.eng.act.status = .asserted → u.eng.act.action = .irq → t.eng.lineIrq = false) ∧
    doneCalls t =
      allNotified u.eng.act.action u.eng.act.reason .actionTimedOut u.eng.numSockets ++ doneCalls u)

@[simp] theorem now_doneCalls (s : State) : doneCalls (now s).2 = doneCalls s := by simp [doneCalls]

section
variable {u : State} (hu : SocketsOk u)
include hu

theorem pending_goesOnOrTimesOut (hst : u.eng.act.status = .pending) :
    GoesOnOrTimesOut (now u).1 u (actionTimeoutCheck (advancePending u)) := by
  have hnot : u.eng.act.status ≠ .asserted := by simp [hst]
  refine ⟨fun ht => ?_, fun ht => ?_⟩
  · rw [advance_pending_within hst ht]
    simp
  · have hend := ActionEnds.pending hu hst ht
    exact ⟨hend.act, fun h => absurd h hnot, fun h => absurd h hnot, fun h => absurd h hnot,
      hend.doneCalls⟩

theorem pulse_goesOnOrTimesOut {p : Pulse} (hst : u.eng.act.status = .asserted)
    (ha : u.eng.act.action = actionOfPulse p)
    (hd : (now u).1 - u.eng.act.assertedAt < u.eng.act.durationUs) :
    GoesOnOrTimesOut (now (now u).2).1 u (actionTimeoutCheck (advancePending u)) := by
  refine ⟨fun ht => ?_, fun ht => ?_⟩
  · rw [advance_pulse_running hst ha hd ht]
    simp
  · have hend := ActionEnds.pulse hu hst ha (.inr ⟨rfl, hd, ht⟩)
    refine ⟨hend.act, fun _ hr => hend.lineReset.trans ?_, fun _ hr => hend.lineNmi.trans ?_,
      fun _ hr => hend.lineIrq.trans ?_, hend.doneCalls.trans (by simp [ha, doneCalls])⟩ <;>
    · rw [← ha, hr]
      rfl

end

/-! ### The diagnostic events leave the action and the time -/

section
variable (s : State)

@[simp] theorem diagEvents_act : (diagEvents s).eng.act = s.eng.act :=
  (congrArg Engine.act (diagEvents_onlyDiag s).engine :)

@[simp] theorem diagEvents_numSockets : (diagEvents s).eng.numSockets = s.eng.numSockets :=
  (congrArg Engine.numSockets (diagEvents_onlyDiag s).engine :)

@[simp] theorem diagEvents_cfg : (diagEvents s).cfg = s.cfg := (diagEvents_onlyDiag s).cfg

@[simp] theorem diagEvents_clock : (diagEvents s).world.clock = s.world.clock := by
  rw [diagEvents_world, drawDiag_clock]

@[simp] theorem diagEvents_timeDraws : (diagEvents s).world.timeDraws = s.world.timeDraws := by
  rw [diagEvents_world, drawDiag_timeDraws]

@[simp] theorem diagEvents_doneCalls : doneCalls (diagEvents s) = doneCalls s := by
  rw [doneCalls, diagEvents_world, drawDiag_calls, doneCalls]

end

/-- A tick that keeps a held cycle ends with the look at the action in progress. -/
theorem exec_serviceTick_kept {s : State} (ha : s.eng.wait.asserted = true)
    (hhold : s.eng.wait.hold = true) :
    exec .serviceTick s =
      .next ((actionTimeoutCheck (advancePending (diagEvents s))).answer okNone) := by
  have hkept : afterWait s = diagEvents s := afterWait_of_kept ha (.inr hhold)
  have hend := (ActionMayEnd.advancePending (diagEvents s)).trans (ActionMayEnd.actionTimeoutCheck _)
  have hasserted : (afterAdvance s).eng.wait.asserted = true := by
    rw [afterAdvance, hkept]
    exact (congrArg WaitState.asserted hend.wait :).trans (by simpa using ha)
  rw [serviceTick_begins_none (.inl hasserted), afterAdvance, hkept]

/-- Settles O27: the diagnostic events change neither the action nor the time, and the tick reads the time
once for the duration of an asserted action and once for the bound. -/
theorem tickTimesOutAction : Obligations.TickTimesOutAction := by
  intro s g0 g1 gs hs ha _ hhold hact
  refine ⟨_, exec_serviceTick_kept ha hhold, rfl, ?_⟩
  have hu : SocketsOk (diagEvents s) :=
    ((TableKept.stepStable s.cfg s.eng.numSockets).diag ⟨hs, rfl, le_refl _⟩).1
  suffices h : GoesOnOrTimesOut (s.world.clock + g0 + g1) (diagEvents s)
      (actionTimeoutCheck (advancePending (diagEvents s))) by
    simp only [GoesOnOrTimesOut, diagEvents_act, diagEvents_cfg, diagEvents_numSockets,
      diagEvents_doneCalls] at h
    exact h
  rcases hact with ⟨hst, hdraws, rfl⟩ | ⟨hst, ⟨p, hp⟩, hdraws, hd⟩
  · have hnow := now_listed ((diagEvents_timeDraws s).trans hdraws)
    have h := pending_goesOnOrTimesOut hu (by simpa using hst)
    rwa [hnow, diagEvents_clock] at h
  · have hnow := now_listed ((diagEvents_timeDraws s).trans hdraws)
    have h := pulse_goesOnOrTimesOut hu (p := p) (by simpa using hst) (by simpa using hp)
      (by simpa [hnow] using hd)
    rwa [hnow, now_listed rfl, diagEvents_clock] at h

end Sys2Proof.Machine
end

section
/-! SUPPORT. How the poll loop of a bus request ends (42_bus_actions.md R216, 70_reset_and_hazards.md R463,
R466). -/

namespace Sys2Proof.Machine

/-! ### One turn of the loop -/

section
variable {s : State} {t0 : Nat}

theorem busackLoop_seen (h : (pollBusack s).1 = true) (fuel : Nat) :
    busackLoop (fuel + 1) t0 s = (true, (sampleBusack s).2) := by
  have hpair : pollBusack s = (true, (sampleBusack s).2) := Prod.ext h rfl
  rw [busackLoop, hpair]

/-- A poll without BUSACK reads the time, and only the time ends the loop there. -/
theorem busackLoop_unseen (h : (pollBusack s).1 = false) (fuel : Nat) :
    busackLoop (fuel + 1) t0 s =
      if s.cfg.busackTimeoutUs ≤ (now (sampleBusack s).2).1 - t0 then
        (false, (now (sampleBusack s).2).2)
      else busackLoop fuel t0 (now (sampleBusack s).2).2 := by
  have hpair : pollBusack s = (false, (sampleBusack s).2) := Prod.ext h rfl
  rw [busackLoop, hpair]
  simp

theorem inWait_afterPoll (s : State) : inWait (now (sampleBusack s).2).2 = inWait s := by simp [inWait]

theorem pollBusack_listed (hw : inWait s = false) {b : Bool} {bs : List Bool}
    (hb : s.world.busackDraws = b :: bs) : (pollBusack s).1 = b := by
  simp [pollBusack, sampleBusack_listed hb, hw]

end

/-! ### How it ends -/

/-- A read of the time uses up a listed growth, or the time left, if any, gets less
(70_reset_and_hazards.md R466). -/
theorem now_decreases (limit : Nat) (s : State) :
    (now s).2.world.timeDraws.length + (limit - (now s).1) <
      s.world.timeDraws.length + (limit - s.world.clock) ∨ limit ≤ (now s).1 := by
  obtain ⟨d, ds, htime, hclock, hstate⟩ | ⟨htime, d, hclock, hstate⟩ := now_cases s <;>
    simp only [hstate, hclock, htime, State.withWorld_world, List.length_cons, List.length_nil] <;> omega

/-- With enough fuel a loop that does not see BUSACK ends when the time is up. -/
theorem busackLoop_ends_by_time {fuel t0 : Nat} {s : State} (hclock : t0 ≤ s.world.clock)
    (hfuel : s.world.timeDraws.length + (t0 + s.cfg.busackTimeoutUs - s.world.clock) < fuel)
    (h : (busackLoop fuel t0 s).1 = false) :
    t0 + s.cfg.busackTimeoutUs ≤ (busackLoop fuel t0 s).2.world.clock := by
  induction fuel generalizing s with
  | zero => omega
  | succ fuel ih =>
    cases hp : (pollBusack s).1 with
    | true =>
      rw [busackLoop_seen hp] at h
      cases h
    | false =>
      have hle := now_le (sampleBusack s).2
      have hless := now_decreases (t0 + s.cfg.busackTimeoutUs) (sampleBusack s).2
      simp only [sampleBusack_clock, sampleBusack_timeDraws] at hle hless
      rw [busackLoop_unseen hp] at h ⊢
      split_ifs at h ⊢ with ht
      · rw [now_clock]
        omega
      · have hrest := ih (s := (now (sampleBusack s).2).2)
        simp only [now_clock, now_cfg, sampleBusack_cfg] at hrest
        exact hrest (by omega) (by omega) h

/-- A Z80 held in a wait stays in it while it is polled, and never answers (70_reset_and_hazards.md R463). -/
theorem busackLoop_inWait (fuel t0 : Nat) {s : State} (hw : inWait s = true) :
    (busackLoop fuel t0 s).1 = false := by
  induction fuel generalizing s with
  | zero => rfl
  | succ fuel ih =>
    rw [busackLoop_unseen (pollBusack_inWait hw)]
    split
    · rfl
    · exact ih ((inWait_afterPoll s).trans hw)

/-- A poll without BUSACK and the read of the time after it, both listed. -/
theorem afterPoll_listed {s : State} {b : Bool} {bs : List Bool} {d : Nat} {ds : List Nat}
    (hbusack : s.world.busackDraws = b :: bs) (htime : s.world.timeDraws = d :: ds) :
    now (sampleBusack s).2 = (s.world.clock + d, s.withWorld { s.world with
      clock := s.world.clock + d, timeDraws := ds, busackDraws := bs }) := by
  rw [now_listed ((sampleBusack_timeDraws s).trans htime), sampleBusack_listed hbusack]
  rfl

/-- The loop ends with BUSACK at the poll that answers, where the listed growths, one for each poll before
it, stay within the timeout. -/
theorem busackLoop_listed {t0 : Nat} {ts : List Nat} {bs : List Bool} {gs : List Nat} {fuel : Nat} {s : State}
    (hw : inWait s = false) (hfuel : gs.length < fuel)
    (hbusack : s.world.busackDraws = List.replicate gs.length false ++ true :: bs)
    (htime : s.world.timeDraws = gs ++ ts)
    (hlimit : gs = [] ∨ s.world.clock + gs.sum - t0 < s.cfg.busackTimeoutUs) :
    busackLoop fuel t0 s = (true, s.withWorld { s.world with
      clock := s.world.clock + gs.sum, timeDraws := ts, busackDraws := bs }) := by
  obtain ⟨fuel, rfl⟩ := Nat.exists_eq_succ_of_ne_zero (Nat.ne_zero_of_lt hfuel)
  induction gs generalizing fuel s with
  | nil =>
    have hlast : s.world.timeDraws = ts := htime
    rw [busackLoop_seen (pollBusack_listed hw hbusack), sampleBusack_listed hbusack, ← hlast]
    rfl
  | cons g gs ih =>
    have hsum : s.world.clock + (g + gs.sum) - t0 < s.cfg.busackTimeoutUs := by simpa using hlimit
    have hon : ¬s.cfg.busackTimeoutUs ≤ s.world.clock + g - t0 := by omega
    have hrest : gs.length < fuel := by simpa using hfuel
    obtain ⟨fuel, rfl⟩ := Nat.exists_eq_succ_of_ne_zero (Nat.ne_zero_of_lt hrest)
    have hw' := (inWait_afterPoll s).trans hw
    rw [busackLoop_unseen (pollBusack_listed hw hbusack)]
    rw [afterPoll_listed hbusack htime] at hw' ⊢
    rw [if_neg hon, ih hw' rfl rfl (.inr (by simpa [Nat.add_assoc] using hsum)) fuel hrest]
    simp [Nat.add_assoc]

/-! ### A bus request -/

/-- Asking for the bus is the poll loop, from the time that is read once BUSRQ is asserted. -/
theorem awaitBusack_eq (s : State) :
    awaitBusack s = busackLoop (busackFuel (now (assertLine .busRequest s)).2)
      (now (assertLine .busRequest s)).1 (now (assertLine .busRequest s)).2 := rfl

theorem assertLine_busRequest (s : State) :
    assertLine .busRequest s = s.withEng { s.eng with lineBusrq := true } := rfl

/-- A bus request that is acknowledged in time uses up the listed growths and samples of its polls. -/
theorem awaitBusack_listed {s : State} {g0 : Nat} {gs ts : List Nat} {bs : List Bool} (hw : inWait s = false)
    (hbusack : s.world.busackDraws = List.replicate gs.length false ++ true :: bs)
    (htime : s.world.timeDraws = g0 :: gs ++ ts)
    (hlimit : gs = [] ∨ gs.sum < s.cfg.busackTimeoutUs) :
    awaitBusack s = (true, (s.withEng { s.eng with lineBusrq := true }).withWorld { s.world with
      clock := s.world.clock + g0 + gs.sum, timeDraws := ts, busackDraws := bs }) := by
  rw [awaitBusack_eq, now_listed (s := assertLine .busRequest s) htime, assertLine_busRequest]
  exact busackLoop_listed (by simpa [inWait] using hw) (by simp [busackFuel]; omega) hbusack rfl
    (by simpa using hlimit)

/-- Settles O29: the loop never runs out of fuel before the time is up, and takes the listed values in
their order. -/
theorem pollLoopEndsByTime : Obligations.PollLoopEndsByTime := by
  intro s
  refine ⟨fun h t0 ht0 => ⟨?_, ?_⟩, fun hw => ?_,
    fun j g0 gs ts bs hw hbusack htime hlen hlimit => ?_, ?_⟩
  · rw [ht0]
    exact now_le (assertLine .busRequest s)
  · rw [awaitBusack_eq, ← ht0] at h ⊢
    have hclock : (now (assertLine .busRequest s)).2.world.clock = t0 := (now_clock _).trans ht0.symm
    simpa using busackLoop_ends_by_time hclock.ge (by simp [busackFuel, hclock]) h
  · rw [awaitBusack_eq, assertLine_busRequest]
    exact busackLoop_inWait _ _ (by simpa [inWait] using hw)
  · subst hlen
    rw [awaitBusack_listed hw hbusack htime (hlimit.imp_left List.length_eq_zero_iff.mp)]
    exact ⟨rfl, rfl⟩
  · obtain ⟨hcfg, heng, htrk, hbp, hport, hworld, -⟩ := awaitBusack_onlyTime s
    exact ⟨heng, htrk, hbp, hcfg, hport, hworld⟩

end Sys2Proof.Machine
end

section
/-! SUPPORT. Mastership of the bus: the outcomes of REQUEST_AND_TAKE and RELEASE (43_mastership_block_io.md R250
to R253). -/

namespace Sys2Proof.Machine

/-! ### The commands' words -/

theorem exec_requestAndTake (s : State) :
    exec .requestAndTake s = .next ((requestAndTake s).2.answer (requestAndTake s).1) := rfl

theorem exec_release (s : State) : exec .release s = .next ((releaseBus s).2.answer (releaseBus s).1) := rfl

/-! ### What waiting for BUSACK and taking the bus leave -/

/-- `x` has the memory of `s`, its I/O, in and out, and its tracker. -/
structure SameBytes (s x : State) : Prop where
  mem : x.world.mem = s.world.mem
  ioWrites : x.world.ioWrites = s.world.ioWrites
  byteDraws : x.world.byteDraws = s.world.byteDraws
  trk : x.trk = s.trk

theorem awaitBusack_sameBytes (s : State) : SameBytes s (awaitBusack s).2 := by
  obtain ⟨-, -, htrk, -, -, hworld, -⟩ := awaitBusack_onlyTime s
  exact ⟨(congrArg World.mem hworld :), (congrArg World.ioWrites hworld :), (congrArg World.byteDraws hworld :),
    htrk⟩

theorem takeMastership_sameBytes (s : State) : SameBytes s (takeMastership (awaitBusack s).2) := by
  obtain ⟨hmem, hio, hdraws, htrk⟩ := awaitBusack_sameBytes s
  rw [takeMastership_frame]
  exact ⟨hmem, hio, hdraws, htrk⟩

theorem deassertLine_awaitBusack (s : State) :
    deassertLine .busRequest (awaitBusack s).2 =
      (awaitBusack s).2.withEng { s.eng with lineBusrq := false } := by
  rw [deassertLine, setLine, awaitBusack_eng]

section
variable {s : State}

/-! ### The outcomes of REQUEST_AND_TAKE (43_mastership_block_io.md R250) -/

theorem requestAndTake_busy (h : ¬(s.eng.mastered = false ∧ s.eng.act.status = .none)) :
    requestAndTake s = (busy, s) := by
  rw [requestAndTake, if_pos]
  simpa [Classical.or_iff_not_imp_left] using h

theorem requestAndTake_polls (hm : s.eng.mastered = false) (hst : s.eng.act.status = .none) :
    requestAndTake s = if (awaitBusack s).1 then (okNone, takeMastership (awaitBusack s).2)
      else (.noBusAck, deassertLine .busRequest (awaitBusack s).2) := by
  rw [requestAndTake, if_neg (by simp [hm, hst])]
  obtain ⟨_ | _, b⟩ := awaitBusack s <;> rfl

theorem requestAndTake_granted (hm : s.eng.mastered = false) (hst : s.eng.act.status = .none)
    (hb : (awaitBusack s).1 = true) : requestAndTake s = (okNone, takeMastership (awaitBusack s).2) := by
  rw [requestAndTake_polls hm hst, if_pos hb]

theorem requestAndTake_failed (hm : s.eng.mastered = false) (hst : s.eng.act.status = .none)
    (hb : (awaitBusack s).1 = false) :
    requestAndTake s = (.noBusAck, (awaitBusack s).2.withEng { s.eng with lineBusrq := false }) := by
  rw [requestAndTake_polls hm hst, if_neg (by simp [hb]), deassertLine_awaitBusack]

/-! ### RELEASE (43_mastership_block_io.md R252) -/

theorem releaseBus_mastered (hm : s.eng.mastered = true) : releaseBus s = (okNone, releaseMastership s) :=
  if_pos hm

theorem releaseBus_unmastered (hm : s.eng.mastered = false) : releaseBus s = (invalid, s) :=
  if_neg (by simp [hm])

end

/-- Settles O30: the two outcomes of the poll loop, which itself only asserts BUSRQ. -/
theorem requestAndTakeEffect : Obligations.RequestAndTakeEffect := by
  intro s hm hst
  rw [exec_requestAndTake]
  refine ⟨fun hb => ?_, fun hb => by rw [requestAndTake_failed hm hst hb]⟩
  rw [requestAndTake_granted hm hst hb, takeMastership_frame, awaitBusack_eng]
  exact ⟨_, rfl, rfl, rfl, rfl, rfl, rfl, rfl, rfl⟩

/-- Settles O31: the frame of `releaseMastership`, whose last step recomputes the aggregates. -/
theorem releaseEffect : Obligations.ReleaseEffect := by
  intro s
  rw [exec_release]
  refine ⟨fun hm => ?_, fun hm => by rw [releaseBus_unmastered hm]⟩
  have hagg := releaseMastership_aggregatesOk s
  rw [releaseMastership_frame] at hagg
  rw [releaseBus_mastered hm, releaseMastership_frame]
  exact ⟨_, rfl, rfl, rfl, rfl, rfl, rfl, hagg, rfl⟩

end Sys2Proof.Machine
end

section
/-! SUPPORT. Block transfers: the bytes that are moved, and the mastership they are moved under
(43_mastership_block_io.md R254 to R257). -/

namespace Sys2Proof.Machine

/-! ### The bytes of a transfer (43_mastership_block_io.md R254) -/

theorem memRead_congr {s t : State} (h : t.world.mem = s.world.mem) (a : Addr) : memRead a t = memRead a s :=
  congrArg (Memory.read · a) h

/-- The bytes of memory that a block read gives. -/
def memBytes (addr : Addr) (n : Nat) (s : State) : List Byte :=
  (List.range n).map fun k => memRead (transferAddr addr k) s

/-- The I/O writes that a block write makes from its `k`-th byte on, in their order. -/
def ioEvents (addr : Addr) (k : Nat) (bs : List Byte) : List (Addr × Byte) :=
  (bs.zipIdx k).map fun p => (transferAddr addr p.2, p.1)

/-- `t` has the bytes of `buf` from `addr` on, and every other byte of memory as `s` has it. -/
abbrev Stored (addr : Addr) (buf : List Byte) (s t : State) : Prop :=
  (∀ (k : Nat) (b : Byte), buf[k]? = some b → memRead (transferAddr addr k) t = b) ∧
  (∀ a : Addr, (∀ k, k < buf.length → a ≠ transferAddr addr k) → memRead a t = memRead a s)

theorem memBytes_congr {s t : State} (h : t.world.mem = s.world.mem) (addr : Addr) (n : Nat) :
    memBytes addr n t = memBytes addr n s := by
  simp only [memBytes, memRead_congr h]

/-- What is stored is what is read back (43_mastership_block_io.md R257). -/
theorem Stored.memBytes_eq {addr : Addr} {buf : List Byte} {s t : State} (h : Stored addr buf s t) :
    memBytes addr buf.length t = buf := by
  refine List.ext_getElem (by simp [memBytes]) fun k _ hk => ?_
  simpa [memBytes] using h.1 k buf[k] (List.getElem?_eq_getElem hk)

theorem readBytes_memory_eq (addr : Addr) (n : Nat) (s : State) :
    readBytes false addr 0 n s = (memBytes addr n s, s) := by
  rw [readBytes_memory, ← List.range_eq_range', memBytes]

/-- A block read of I/O takes one draw for each byte. -/
theorem readBytes_io_listed {addr : Addr} {bs rest : List Byte} {k : Nat} {s : State}
    (h : s.world.byteDraws = bs ++ rest) :
    readBytes true addr k bs.length s = (bs, s.withWorld { s.world with byteDraws := rest }) := by
  induction bs generalizing k s with
  | nil =>
    have hrest : s.world.byteDraws = rest := h
    rw [← hrest]
    rfl
  | cons b bs ih =>
    have hdraw : ioRead s = (b, s.withWorld { s.world with byteDraws := bs ++ rest }) := drawByte_listed h
    simp only [List.length_cons, readBytes, if_true, hdraw]
    rw [ih rfl]
    rfl

/-- A block read writes neither memory nor I/O. -/
theorem readBytes_writes_nothing (io : Bool) (addr : Addr) (k n : Nat) (s : State) :
    (readBytes io addr k n s).2.world.mem = s.world.mem ∧
      (readBytes io addr k n s).2.world.ioWrites = s.world.ioWrites := by
  induction n generalizing k s with
  | zero => exact ⟨rfl, rfl⟩
  | succ n ih =>
    cases io with
    | false => exact ih (k + 1) s
    | true =>
      obtain ⟨hmem, hio⟩ := ih (k + 1) (drawByte s).2
      exact ⟨hmem.trans (drawByte_mem s), hio.trans (drawByte_ioWrites s)⟩

/-- A block write to I/O makes one write for each byte (43_mastership_block_io.md R256). -/
theorem writeBytes_io (addr : Addr) (k : Nat) (bs : List Byte) (s : State) :
    writeBytes true addr k bs s = s.withWorld { s.world with
      ioWrites := (ioEvents addr k bs).reverse ++ s.world.ioWrites } := by
  induction bs generalizing k s with
  | nil => rfl
  | cons b bs ih =>
    simp only [writeBytes, if_true]
    rw [ih]
    simp [ioEvents, ioWrite]

/-- A block write to memory, from a state `x` with the memory of `s`, stores its bytes and no other. -/
theorem writeBytes_stored {s x t : State} (hs : MemoryOk s) (hx : x.world.mem = s.world.mem)
    {addr : Addr} {buf : List Byte} (hl : buf.length ≤ 65536)
    (ht : t.world.mem = (writeBytes false addr 0 buf x).world.mem) : Stored addr buf s t := by
  have hwf : Memory.wf x.world.mem = true := hx ▸ hs.1
  refine ⟨fun k b hk => ?_, fun a ha => ?_⟩
  · have hself := writeBytes_memory_self hwf addr 0 hl hk
    rw [Nat.zero_add] at hself
    exact (memRead_congr ht _).trans hself
  · have hother := writeBytes_memory_other (s := x) (k := 0) (bs := buf)
      fun j _ hj => ha j (by omega)
    rw [memRead_congr ht, hother, memRead_congr hx]

/-! ### The mastership of a transfer (43_mastership_block_io.md R255, R256) -/

section
variable {s : State} {len : Nat} {auto : Bool} {atZero : Ret} {body : State → Ret × State}

theorem blockTransfer_tooLong (hl : 65536 < len) : blockTransfer len auto atZero body s = (invalid, s) :=
  if_pos hl

theorem blockTransfer_empty : blockTransfer 0 auto atZero body s = (atZero, s) := by simp [blockTransfer]

theorem blockTransfer_mastered (hl : len ≤ 65536) (h0 : 0 < len) (hm : s.eng.mastered = true) :
    blockTransfer len auto atZero body s = body s := by
  rw [blockTransfer, if_neg (by omega), if_neg (by omega), if_pos hm]

theorem blockTransfer_unmastered (hl : len ≤ 65536) (h0 : 0 < len) (hm : s.eng.mastered = false) :
    blockTransfer len false atZero body s = (invalid, s) := by
  simp [blockTransfer, hm, Nat.not_lt.mpr hl, Nat.ne_of_gt h0]

theorem blockTransfer_taken (hl : len ≤ 65536) (h0 : 0 < len) (hm : s.eng.mastered = false) {v : RetVal}
    {x : State} (htake : requestAndTake s = (.ok v, x)) :
    blockTransfer len true atZero body s = ((body x).1, releaseMastership (body x).2) := by
  simp [blockTransfer, hm, Nat.not_lt.mpr hl, Nat.ne_of_gt h0, htake]

theorem blockTransfer_notTaken (hl : len ≤ 65536) (h0 : 0 < len) (hm : s.eng.mastered = false) {r : Ret}
    {x : State} (htake : requestAndTake s = (r, x)) (hr : ∀ v, r ≠ .ok v) :
    blockTransfer len true atZero body s = (r, x) := by
  cases r with
  | ok v => exact absurd rfl (hr v)
  | noBusAck | error => simp [blockTransfer, hm, Nat.not_lt.mpr hl, Nat.ne_of_gt h0, htake]

theorem blockTransfer_granted (hl : len ≤ 65536) (h0 : 0 < len) (hm : s.eng.mastered = false)
    (hst : s.eng.act.status = .none) (hb : (awaitBusack s).1 = true) :
    blockTransfer len true atZero body s =
      ((body (takeMastership (awaitBusack s).2)).1,
        releaseMastership (body (takeMastership (awaitBusack s).2)).2) :=
  blockTransfer_taken hl h0 hm (requestAndTake_granted hm hst hb)

theorem blockTransfer_failed (hl : len ≤ 65536) (h0 : 0 < len) (hm : s.eng.mastered = false)
    (hst : s.eng.act.status = .none) (hb : (awaitBusack s).1 = false) :
    blockTransfer len true atZero body s =
      (.noBusAck, (awaitBusack s).2.withEng { s.eng with lineBusrq := false }) :=
  blockTransfer_notTaken hl h0 hm (requestAndTake_failed hm hst hb) nofun

theorem blockTransfer_busy (hl : len ≤ 65536) (h0 : 0 < len) (hm : s.eng.mastered = false)
    (hst : s.eng.act.status ≠ .none) : blockTransfer len true atZero body s = (busy, s) :=
  blockTransfer_notTaken hl h0 hm (requestAndTake_busy fun h => hst h.2) nofun

/-- A transfer that is Ok had no byte to move, or moved its bytes from the memory of `s` and left memory as
they did. -/
theorem blockTransfer_ok {v : RetVal} (h : (blockTransfer len auto atZero body s).1 = .ok v) :
    len = 0 ∧ blockTransfer len auto atZero body s = (atZero, s) ∨
      len ≤ 65536 ∧ ∃ x, x.world.mem = s.world.mem ∧ (body x).1 = .ok v ∧
        (blockTransfer len auto atZero body s).2.world.mem = (body x).2.world.mem := by
  obtain hl | hl := Nat.lt_or_ge 65536 len
  · simp [blockTransfer_tooLong hl, invalid] at h
  obtain rfl | h0 := Nat.eq_zero_or_pos len
  · exact .inl ⟨rfl, blockTransfer_empty⟩
  refine .inr ⟨hl, ?_⟩
  cases hm : s.eng.mastered with
  | true =>
    rw [blockTransfer_mastered hl h0 hm] at h ⊢
    exact ⟨s, rfl, h, rfl⟩
  | false =>
    cases auto with
    | false => simp [blockTransfer_unmastered hl h0 hm, invalid] at h
    | true =>
      by_cases hst : s.eng.act.status = .none
      · cases hb : (awaitBusack s).1 with
        | false => simp [blockTransfer_failed hl h0 hm hst hb] at h
        | true =>
          rw [blockTransfer_granted hl h0 hm hst hb] at h ⊢
          exact ⟨takeMastership (awaitBusack s).2, (takeMastership_sameBytes s).mem, h, rfl⟩
      · simp [blockTransfer_busy hl h0 hm hst, busy] at h

end

/-! ### BLOCK_READ and BLOCK_WRITE -/

theorem exec_blockRead (auto io : Bool) (addr : Addr) (s : State) : exec (.blockRead auto io addr) s =
    finish (blockRead addr s.port.payload.len io auto s) := rfl

theorem exec_blockWrite (auto io : Bool) (addr : Addr) (s : State) : exec (.blockWrite auto io addr) s =
    finish (blockWrite addr s.port.payload.buf io auto s) := rfl

/-- The bytes that a block read moves, with its result. -/
def readBody (io : Bool) (addr : Addr) (len : Nat) (s : State) : Ret × State :=
  (.ok (.buffer (readBytes io addr 0 len s).1), (readBytes io addr 0 len s).2)

section
variable (s : State) (addr : Addr) (io auto : Bool)

theorem blockRead_eq (len : Nat) :
    blockRead addr len io auto s = blockTransfer len auto (.ok (.buffer [])) (readBody io addr len) s := rfl

theorem blockWrite_eq (buf : List Byte) : blockWrite addr buf io auto s =
    blockTransfer buf.length auto okNone (fun x => (okNone, writeBytes io addr 0 buf x)) s := rfl

theorem blockRead_empty : blockRead addr 0 io auto s = (.ok (.buffer []), s) := blockTransfer_empty

theorem blockWrite_empty : blockWrite addr [] io auto s = (okNone, s) := blockTransfer_empty

variable {s}

theorem blockRead_mastered (hm : s.eng.mastered = true) {len : Nat} (hl : len ≤ 65536) :
    blockRead addr len io auto s = readBody io addr len s := by
  obtain rfl | h0 := Nat.eq_zero_or_pos len
  · exact blockRead_empty s addr io auto
  · exact blockTransfer_mastered hl h0 hm

theorem blockWrite_mastered (hm : s.eng.mastered = true) {buf : List Byte} (hl : buf.length ≤ 65536) :
    blockWrite addr buf io auto s = (okNone, writeBytes io addr 0 buf s) := by
  obtain rfl | h0 := eq_or_ne buf []
  · exact blockWrite_empty s addr io auto
  · exact blockTransfer_mastered hl (List.length_pos_of_ne_nil h0) hm

end

/-- Settles O32: the reads of `readBytes_memory` and `readBytes_io_listed`, under the mastership there is. -/
theorem blockReadReturnsBytes : Obligations.BlockReadReturnsBytes := by
  intro s auto addr hl
  refine ⟨fun h0 io => ?_, fun hm => ?_, fun hm bs rest hlen hdraws => ?_⟩
  · rw [exec_blockRead, h0, blockRead_empty]
    rfl
  · rw [exec_blockRead, blockRead_mastered addr false auto hm hl, readBody, readBytes_memory_eq]
    rfl
  · rw [exec_blockRead, blockRead_mastered addr true auto hm hl, readBody, ← hlen, readBytes_io_listed hdraws]
    rfl

/-- Settles O33: the bytes of a transfer go to different addresses, so each stays where it is stored. -/
theorem blockWriteStoresBytes : Obligations.BlockWriteStoresBytes := by
  intro s auto addr hs hl
  refine ⟨fun h0 io => ?_, fun hm => ⟨?_, ?_⟩⟩
  · rw [exec_blockWrite, h0, blockWrite_empty]
    rfl
  · rw [exec_blockWrite, blockWrite_mastered addr false auto hm hl]
    refine ⟨_, rfl, ?_, writeBytes_stored hs rfl hl rfl⟩
    exact congrArg (State.answer okNone) (writeBytes_memory_frame addr 0 s.port.payload.buf s)
  · rw [exec_blockWrite, blockWrite_mastered addr true auto hm hl, writeBytes_io]
    exact ⟨_, rfl, rfl⟩

/-! ### A transfer that takes the bus itself -/

/-- `t` is `y` with the bus given back, primed, but for its result (43_mastership_block_io.md R253). -/
structure GivenBack (y t : State) : Prop where
  mastered : t.eng.mastered = false
  lineBusrq : t.eng.lineBusrq = false
  busDriven : t.eng.busDriven = false
  primed : t.eng.skipRefreshPrimed = true
  aggregates : AggregatesOk t
  world : t.world = y.world
  trk : t.trk = y.trk

theorem releaseMastership_givenBack (y : State) (r : Ret) :
    GivenBack y ((releaseMastership y).answer r) := by
  have hagg : AggregatesOk ((releaseMastership y).answer r) :=
    aggregatesOk_congr (State.answer_eng _ _) (releaseMastership_aggregatesOk y)
  rw [releaseMastership_frame] at hagg ⊢
  exact ⟨rfl, rfl, rfl, rfl, hagg, rfl, rfl⟩

section
variable {s : State} {addr : Addr} (hm : s.eng.mastered = false) (hst : s.eng.act.status = .none)
include hm hst

/-- An automatic block read, of memory or of I/O (43_mastership_block_io.md R255). -/
theorem autoRead_givesBusBack (h0 : 0 < s.port.payload.len) (hl : s.port.payload.len ≤ 65536) (io : Bool) :
    ∃ t, exec (.blockRead true io addr) s = .next t ∧
      t.eng.mastered = false ∧ t.eng.lineBusrq = false ∧ t.world.mem = s.world.mem ∧
      t.world.ioWrites = s.world.ioWrites ∧ t.trk = s.trk ∧
      ((awaitBusack s).1 = true →
        t.eng.skipRefreshPrimed = true ∧ t.eng.busDriven = false ∧ AggregatesOk t ∧
        (io = false → t.port.result = .ok (.buffer (memBytes addr s.port.payload.len s))) ∧
        (∀ bs rest : List Byte, io = true → bs.length = s.port.payload.len →
          s.world.byteDraws = bs ++ rest →
          t.port.result = .ok (.buffer bs) ∧ t.world.byteDraws = rest)) ∧
      ((awaitBusack s).1 = false →
        t.port.result = .noBusAck ∧ t.world.byteDraws = s.world.byteDraws) := by
  rw [exec_blockRead, blockRead_eq]
  cases hb : (awaitBusack s).1 with
  | false =>
    rw [blockTransfer_failed hl h0 hm hst hb]
    obtain ⟨hmem, hio, hdraws, htrk⟩ := awaitBusack_sameBytes s
    generalize (awaitBusack s).2 = x at *
    exact ⟨_, rfl, hm, rfl, hmem, hio, htrk, nofun, fun _ => ⟨rfl, hdraws⟩⟩
  | true =>
    rw [blockTransfer_granted hl h0 hm hst hb, readBody]
    obtain ⟨hmem, hio, hdraws, htrk⟩ := takeMastership_sameBytes s
    generalize takeMastership (awaitBusack s).2 = x at *
    obtain ⟨hmem', hio'⟩ := readBytes_writes_nothing io addr 0 s.port.payload.len x
    have htrk' := (readBytes_transferFrame io addr 0 s.port.payload.len x).trk
    generalize hy : readBytes io addr 0 s.port.payload.len x = y at *
    have hback := releaseMastership_givenBack y.2 (.ok (.buffer y.1))
    refine ⟨_, rfl, hback.mastered, hback.lineBusrq, (congrArg World.mem hback.world).trans (hmem'.trans hmem),
      (congrArg World.ioWrites hback.world).trans (hio'.trans hio), hback.trk.trans (htrk'.trans htrk),
      fun _ => ⟨hback.primed, hback.busDriven, hback.aggregates, ?_, ?_⟩, nofun⟩
    · rintro rfl
      rw [readBytes_memory_eq, memBytes_congr hmem] at hy
      rw [← hy]
      rfl
    · rintro bs rest rfl hlen hlisted
      rw [← hlen, readBytes_io_listed (hdraws.trans hlisted)] at hy
      rw [← hy] at hback ⊢
      exact ⟨rfl, congrArg World.byteDraws hback.world⟩

/-- An automatic block write, to memory or to I/O (43_mastership_block_io.md R256). -/
theorem autoWrite_givesBusBack (hs : MemoryOk s) (h0 : 0 < s.port.payload.buf.length)
    (hl : s.port.payload.buf.length ≤ 65536) (io : Bool) :
    ∃ t, exec (.blockWrite true io addr) s = .next t ∧
      t.eng.mastered = false ∧ t.eng.lineBusrq = false ∧ t.trk = s.trk ∧
      ((awaitBusack s).1 = true →
        t.port.result = okNone ∧ t.eng.skipRefreshPrimed = true ∧ t.eng.busDriven = false ∧
        AggregatesOk t ∧
        (io = false → Stored addr s.port.payload.buf s t ∧ t.world.ioWrites = s.world.ioWrites) ∧
        (io = true →
          t.world.mem = s.world.mem ∧
          t.world.ioWrites = (ioEvents addr 0 s.port.payload.buf).reverse ++ s.world.ioWrites)) ∧
      ((awaitBusack s).1 = false →
        t.port.result = .noBusAck ∧ t.world.mem = s.world.mem ∧ t.world.ioWrites = s.world.ioWrites) := by
  rw [exec_blockWrite, blockWrite_eq]
  cases hb : (awaitBusack s).1 with
  | false =>
    rw [blockTransfer_failed hl h0 hm hst hb]
    obtain ⟨hmem, hio, -, htrk⟩ := awaitBusack_sameBytes s
    generalize (awaitBusack s).2 = x at *
    exact ⟨_, rfl, hm, rfl, htrk, nofun, fun _ => ⟨rfl, hmem, hio⟩⟩
  | true =>
    rw [blockTransfer_granted hl h0 hm hst hb]
    obtain ⟨hmem, hio, -, htrk⟩ := takeMastership_sameBytes s
    generalize takeMastership (awaitBusack s).2 = x at *
    have htrk' := (writeBytes_transferFrame io addr 0 s.port.payload.buf x).trk
    generalize hy : writeBytes io addr 0 s.port.payload.buf x = y at *
    have hback := releaseMastership_givenBack y okNone
    refine ⟨_, rfl, hback.mastered, hback.lineBusrq, hback.trk.trans (htrk'.trans htrk),
      fun _ => ⟨rfl, hback.primed, hback.busDriven, hback.aggregates, ?_, ?_⟩, nofun⟩
    · rintro rfl
      refine ⟨writeBytes_stored hs hmem hl ((congrArg World.mem hback.world).trans (by rw [hy])),
        (congrArg World.ioWrites hback.world).trans ?_⟩
      rw [← hy, writeBytes_memory_frame]
      exact hio
    · rintro rfl
      rw [writeBytes_io, hio] at hy
      rw [← hy] at hback ⊢
      exact ⟨(congrArg World.mem hback.world).trans hmem, congrArg World.ioWrites hback.world⟩

end

/-- Settles O34: the transfer runs between taking the bus, which leaves every byte, and giving it back. -/
theorem autoTransferGivesBusBack : Obligations.AutoTransferGivesBusBack := by
  intro s addr hs hm hst
  refine ⟨fun h0 hl io => autoRead_givesBusBack hm hst h0 hl io, fun h0 hl io => ?_⟩
  obtain ⟨t, hexec, hmast, hline, htrk, hgranted, hfailed⟩ :=
    autoWrite_givesBusBack (addr := addr) hm hst hs h0 hl io
  refine ⟨t, hexec, hmast, hline, htrk, fun hb => ?_, hfailed⟩
  obtain ⟨hres, hskip, hdriven, hagg, hmemory, hports⟩ := hgranted hb
  refine ⟨hres, hskip, hdriven, hagg, fun hio => ?_, hports⟩
  obtain ⟨⟨hself, hother⟩, hwrites⟩ := hmemory hio
  exact ⟨hself, hother, hwrites⟩

/-! ### The round trip (43_mastership_block_io.md R257) -/

section
variable {s : State} {addr : Addr} {auto : Bool}

/-- A block write to memory that is Ok has stored its bytes, whoever mastered the bus. -/
theorem blockWrite_ok_stored (hs : MemoryOk s) {buf : List Byte}
    (h : (blockWrite addr buf false auto s).1 = okNone) :
    Stored addr buf s (blockWrite addr buf false auto s).2 := by
  rw [blockWrite_eq] at h ⊢
  obtain ⟨h0, heq⟩ | ⟨hl, x, hx, -, hmem⟩ := blockTransfer_ok h
  · obtain rfl := List.eq_nil_of_length_eq_zero h0
    exact writeBytes_stored hs rfl (Nat.zero_le _) (by rw [heq]; rfl)
  · exact writeBytes_stored hs hx hl hmem

/-- A block read of memory that is Ok has returned its bytes, whoever mastered the bus. -/
theorem blockRead_ok_bytes {len : Nat} {bs : List Byte}
    (h : (blockRead addr len false auto s).1 = .ok (.buffer bs)) : bs = memBytes addr len s := by
  rw [blockRead_eq] at h
  obtain ⟨rfl, heq⟩ | ⟨-, x, hx, hbody, -⟩ := blockTransfer_ok h
  · rw [heq] at h
    cases h
    rfl
  · rw [readBody, readBytes_memory_eq] at hbody
    cases hbody
    exact memBytes_congr hx addr len

end

/-- Settles O35: what is Ok to write is stored, and what is Ok to read is what stands there. -/
theorem blockRoundTrip : Obligations.BlockRoundTrip := by
  intro s t u v auto auto' addr bs hs hwrite hok hmem hlen hread hbytes
  rw [exec_blockWrite] at hwrite
  rw [exec_blockRead] at hread
  cases hwrite
  cases hread
  have hstored := blockWrite_ok_stored hs hok
  calc bs = memBytes addr u.port.payload.len u := blockRead_ok_bytes hbytes
    _ = memBytes addr s.port.payload.buf.length
          (blockWrite addr s.port.payload.buf false auto s).2 := by rw [hlen]; exact memBytes_congr hmem _ _
    _ = s.port.payload.buf := hstored.memBytes_eq

end Sys2Proof.Machine
end

section
/-! SUPPORT. The breakpoint commands and IS_PREFIX (44_boundary_breakpoints.md R280, R286 to
R289): what each answers and writes, and what it refuses. -/

namespace Sys2Proof.Machine

/-! ### The commands' words -/

theorem exec_bpSet (t : BpTable) (i : Nat) (pc : Addr) (s : State) :
    exec (.bpSet t i pc) s = finish (bpSet t i pc s.port.payload.msg s) := rfl

theorem exec_bpClear (t : BpTable) (i : Nat) (s : State) :
    exec (.bpClear t i) s = finish (bpClear t i s) := rfl

theorem exec_bpGlobalEnable (e : Bool) (s : State) : exec (.bpGlobalEnable e) s =
    .next ((s.withBp { s.bp with globalEnable := e }).answer okNone) := rfl

theorem exec_checkForBreak (f : CtrlFlags) (addr : Addr) (s : State) : exec (.checkForBreak f addr) s =
    .next (s.answer (.ok (.hit (checkForBreak addr f s)))) := rfl

theorem exec_isPrefix (b : Byte) (s : State) :
    exec (.isPrefix b) s = .next (s.answer (.ok (.bool (prefixByte b)))) := rfl

/-! ### BP_SET, BP_CLEAR -/

section
variable {s : State} {t : BpTable} {i : Nat}

/-- Each table has the entries that its parameter counts (10_state.md R37). -/
theorem TableOk.bpTable_length (hs : TableOk s) (t : BpTable) :
    (bpTable t s.bp).length = bpSize t s.cfg := by
  obtain ⟨-, -, -, -, -, -, -, -, hfast, hslow⟩ := hs
  cases t with
  | fast => exact hfast
  | slow => exact hslow

theorem bpSet_inside (h : i < bpSize t s.cfg) (pc : Addr) (msg : String) : bpSet t i pc msg s =
    (okNone, bpWrite t i { enabled := true, pc := pc, hitMessage := msg } s) := if_pos h

theorem bpSet_outside (h : bpSize t s.cfg ≤ i) (pc : Addr) (msg : String) :
    bpSet t i pc msg s = (invalid, s) := if_neg (Nat.not_lt.mpr h)

theorem bpClear_inside (h : i < bpSize t s.cfg) {e : Breakpoint} (he : (bpTable t s.bp)[i]? = some e) :
    bpClear t i s = (okNone, bpWrite t i { e with enabled := false } s) := by
  rw [bpClear, if_pos h, List.getD_eq_getElem?_getD, he, Option.getD_some]

theorem bpClear_outside (h : bpSize t s.cfg ≤ i) : bpClear t i s = (invalid, s) :=
  if_neg (Nat.not_lt.mpr h)

/-- A command that writes one entry writes that one, and nothing else but its answer. -/
theorem finish_bpWrite (hi : i < (bpTable t s.bp).length) (e : Breakpoint) :
    ∃ u, finish (okNone, bpWrite t i e s) = .next u ∧ u = (s.withBp u.bp).answer okNone ∧
      u.bp.globalEnable = s.bp.globalEnable ∧ (bpTable t u.bp)[i]? = some e ∧
      ∀ (t' : BpTable) (j : Nat), (t', j) ≠ (t, i) →
        (bpTable t' u.bp)[j]? = (bpTable t' s.bp)[j]? := by
  obtain ⟨hself, hother⟩ := bpWrite_table hi e
  have hframe := congrArg (State.answer okNone) (bpWrite_frame t i e s)
  exact ⟨_, finish_eq _ _, hframe, bpWrite_globalEnable t i e s, hself, hother⟩

end

/-- Settles O36: both commands are one write of an entry of the table, or a refusal. -/
theorem breakpointCommandsEffect : Obligations.BreakpointCommandsEffect := by
  intro s t idx hs
  simp only [exec_bpSet, exec_bpClear]
  refine ⟨fun hin => ⟨fun pc => ?_, ?_⟩, fun hout => ⟨fun pc => ?_, ?_⟩⟩
  · rw [bpSet_inside hin]
    exact finish_bpWrite (hs.bpTable_length t ▸ hin) _
  · have hlen : idx < (bpTable t s.bp).length := hs.bpTable_length t ▸ hin
    have hentry := List.getElem?_eq_getElem hlen
    rw [bpClear_inside hin hentry]
    obtain ⟨u, hexec, hframe, hglobal, hself, hother⟩ := finish_bpWrite hlen _
    exact ⟨u, hexec, hframe, hglobal, ⟨_, hentry, hself⟩, hother⟩
  · rw [bpSet_outside hout, finish_eq]
  · rw [bpClear_outside hout, finish_eq]

/-! ### CHECK_FOR_BREAK -/

section
variable {s : State} {f : CtrlFlags} {addr : Addr}

/-- The cycles for which the tables are searched: an M1 read while the bus is not mastered. -/
def BreakSearched (f : CtrlFlags) (s : State) : Prop :=
  flagM1 f = true ∧ flagRd f = true ∧ s.eng.mastered = false

/-- Entry `i` is the lowest enabled entry of `l` with this pc, and `msg` is its message. -/
def LowestHit (addr : Addr) (l : List Breakpoint) (i : Nat) (msg : String) : Prop :=
  l[i]? = some { enabled := true, pc := addr, hitMessage := msg } ∧
  ∀ j, j < i → ∀ m, l[j]? ≠ some { enabled := true, pc := addr, hitMessage := m }

theorem findHit_zero_some {l : List Breakpoint} {i : Nat} {msg : String} :
    findHit addr 0 l = some (i, msg) ↔ LowestHit addr l i msg := by
  simp [findHit_some, LowestHit]

theorem checkForBreak_unsearched (h : ¬ BreakSearched f s) : checkForBreak addr f s = none := by
  rw [checkForBreak]
  split
  · rfl
  next hread =>
    obtain ⟨hm1, hrd⟩ : flagM1 f = true ∧ flagRd f = true := by simpa using hread
    exact if_pos (by simpa [BreakSearched, hm1, hrd] using h)

/-- Where the tables are searched, a hit in the fast one decides, and else the slow one if it is enabled. -/
theorem checkForBreak_searched (h : BreakSearched f s) : checkForBreak addr f s =
    match findHit addr 0 s.bp.fast with
    | some hit => some (.fast, hit)
    | none => if s.bp.globalEnable then (findHit addr 0 s.bp.slow).map (BpTable.slow, ·) else none := by
  obtain ⟨hm1, hrd, hmastered⟩ := h
  simp only [checkForBreak, hm1, hrd, hmastered]
  cases findHit addr 0 s.bp.fast <;> cases findHit addr 0 s.bp.slow <;> rfl

theorem checkForBreak_fast {hit : Nat × String} : checkForBreak addr f s = some (.fast, hit) ↔
    BreakSearched f s ∧ findHit addr 0 s.bp.fast = some hit := by
  by_cases h : BreakSearched f s
  · rw [checkForBreak_searched h]
    cases findHit addr 0 s.bp.fast <;> simp [h]
  · simp [checkForBreak_unsearched h, h]

theorem checkForBreak_slow {hit : Nat × String} : checkForBreak addr f s = some (.slow, hit) ↔
    BreakSearched f s ∧ findHit addr 0 s.bp.slow = some hit ∧
      s.bp.globalEnable = true ∧ findHit addr 0 s.bp.fast = none := by
  by_cases h : BreakSearched f s
  · rw [checkForBreak_searched h]
    cases findHit addr 0 s.bp.fast <;> simp [h, and_comm]
  · simp [checkForBreak_unsearched h, h]

end

/-- Settles O38: the answer is a hit of the fast table, or of the slow one where the fast one has none. -/
theorem checkForBreakResult : Obligations.CheckForBreakResult := by
  intro s f addr
  refine ⟨_, exec_checkForBreak f addr s, fun t i msg => ?_⟩
  cases t with
  | fast =>
    rw [checkForBreak_fast, findHit_zero_some]
    simp [BreakSearched, LowestHit, bpTable, and_assoc]
  | slow =>
    rw [checkForBreak_slow, findHit_zero_some, findHit_none]
    simp only [BreakSearched, LowestHit, bpTable, and_assoc, forall_const]

/-! ### BP_GLOBAL_ENABLE, IS_PREFIX -/

theorem prefixByte_eq (b : Byte) : prefixByte b = decide (b ∈ [0xCB#8, 0xDD#8, 0xED#8, 0xFD#8]) := by
  simp [prefixByte, Bool.or_assoc, Bool.decide_or, ← Bool.beq_eq_decide_eq]

/-- Settles O37: the one command writes its flag, the other compares its byte with the four prefixes. -/
theorem globalEnableAndPrefixResults : Obligations.GlobalEnableAndPrefixResults := by
  refine fun s => ⟨fun e => exec_bpGlobalEnable e s, fun b => ?_⟩
  rw [exec_isPrefix, prefixByte_eq]

end Sys2Proof.Machine
end

section
/-! SUPPORT. The tracker's callback at a cycle, as one list of transitions (45_tracker.md R316, R320, R321, R324,
46_injection.md R380): every wait cycle that the tracker hears makes one of them. -/

namespace Sys2Proof.Machine

/-! ### A fetch outside an injection (45_tracker.md R321) -/

theorem isFetch_iff {f : CtrlFlags} : isFetch f = true ↔ isMemRead f = true ∧ flagM1 f = true :=
  Bool.and_eq_true_iff

theorem isMem_of_isFetch {f : CtrlFlags} (hf : isFetch f = true) : isMem f = true := by
  simp only [isFetch, isMemRead, Bool.and_eq_true] at hf
  exact hf.1.1.1

/-- The break that a fetch notes is the one of `CHECK_FOR_BREAK`, or the last one before. -/
def NotesBreak (addr : Addr) (f : CtrlFlags) (s : State) (brk : Option (BpTable × Nat × Addr))
    (msg : String) : Prop :=
  noteBreak addr (checkForBreak addr f s) s =
    s.withTrk { s.trk with lastBreak := brk, breakMessage := msg }

theorem notesBreak_exists (addr : Addr) (f : CtrlFlags) (s : State) :
    ∃ brk msg, NotesBreak addr f s brk msg := by
  unfold NotesBreak noteBreak
  split <;> exact ⟨_, _, rfl⟩

/-- The tracker that begins a SET of `r` at a boundary, its first byte supplied (45_tracker.md R318). -/
def Tracker.startSet (r : Z80Registers) (addr : Addr) (halt : Bool) (k : Tracker) : Tracker :=
  { k with
    hist1 := false, hist0 := false
    seqKind := .set, setActive := r, setRequest := none, seq := setTemplate r
    cursor := 1, wrOrdinal := 0, cap := List.replicate 23 (0, 0), boundaryPc := addr
    haltAfter := halt, disturbed := false, pageOut := true, state := .injecting }

/-- The tracker that begins a GET at a boundary, its first byte supplied (45_tracker.md R318). -/
def Tracker.startGet (addr : Addr) (halt : Bool) (k : Tracker) : Tracker :=
  { k with
    hist1 := false, hist0 := false
    seqKind := .get, getRequested := false, seq := getTemplate
    cursor := 1, wrOrdinal := 0, cap := List.replicate 23 (0, 0), boundaryPc := addr
    haltAfter := halt, disturbed := false, pageOut := true, state := .injecting }

/-- A write of flags reads and leaves the tracker. -/
theorem changeSocket_withTrk (h : Nat) (g : Socket → Socket) (s : State) (k : Tracker) :
    changeSocket h g (s.withTrk k) = ((changeSocket h g s).1, (changeSocket h g s).2.withTrk k) := by
  by_cases hh : h < s.eng.numSockets
  · rw [changeSocket_ok hh, changeSocket_ok (s := s.withTrk k) hh]; rfl
  · rw [changeSocket_bad hh, changeSocket_bad (s := s.withTrk k) hh]

theorem setTemplate_head (r : Z80Registers) : (setTemplate r)[0]? = some 0x01 := rfl

theorem getTemplate_head : getTemplate[0]? = some 0xF5 := rfl

section
variable {s : State} {addr : Addr} {data : Byte} {f : CtrlFlags}
  {brk : Option (BpTable × Nat × Addr)} {msg : String}

/-- A fetch inside an instruction is recorded. -/
theorem boundaryStep_inside (hn : NotesBreak addr f s brk msg) (h0 : s.trk.hist0 = true) :
    boundaryStep addr data f s = (.notDecoded, s.withTrk { s.trk with
      lastBreak := brk, breakMessage := msg, hist1 := true, hist0 := prefixByte data }) := by
  rw [boundaryStep, hn]
  simp [h0, recordFetch]

/-- An armed hold is taken at a boundary. -/
theorem boundaryStep_hold (hn : NotesBreak addr f s brk msg) (h0 : s.trk.hist0 = false)
    (ha : s.trk.holdArmed = true) :
    boundaryStep addr data f s = (.notDecoded, (setHold s.trk.socket true s).2.withTrk { s.trk with
      lastBreak := brk, breakMessage := msg, hist1 := false, hist0 := prefixByte data
      holdArmed := false, held := true, state := .awaiting }) := by
  rw [boundaryStep, hn]
  simp [h0, ha, takeHold, recordFetch, setHold, changeSocket_withTrk]

/-- A SET that is asked for begins at a boundary, before any GET. -/
theorem boundaryStep_set (hn : NotesBreak addr f s brk msg) (h0 : s.trk.hist0 = false)
    (ha : s.trk.holdArmed = false) (hf : isFetch f = true) {r : Z80Registers}
    (hr : s.trk.setRequest = some r) :
    boundaryStep addr data f s = (.injectOpcode 0x01, s.withTrk
      ({ s.trk with lastBreak := brk, breakMessage := msg }.startSet r addr
        (s.trk.stepInto || (checkForBreak addr f s).isSome))) := by
  obtain ⟨hmr, hm1⟩ := isFetch_iff.mp hf
  rw [boundaryStep, hn]
  simp [h0, ha, hr, startInjection, injectStep, hmr, hm1, recordFetch, nextInjectByte,
    setTemplate_head, Tracker.startSet, Tracker.noCaptures, prefixByte]

/-- A GET begins at a boundary when it is asked for, in step mode, and at a break. -/
theorem boundaryStep_get (hn : NotesBreak addr f s brk msg) (h0 : s.trk.hist0 = false)
    (ha : s.trk.holdArmed = false) (hf : isFetch f = true) (hr : s.trk.setRequest = none)
    (hwant : s.trk.getRequested = true ∨ s.trk.stepInto = true ∨
      (checkForBreak addr f s).isSome = true) :
    boundaryStep addr data f s = (.injectOpcode 0xF5, s.withTrk
      ({ s.trk with lastBreak := brk, breakMessage := msg }.startGet addr
        (s.trk.stepInto || (checkForBreak addr f s).isSome))) := by
  obtain ⟨hmr, hm1⟩ := isFetch_iff.mp hf
  rw [boundaryStep, hn]
  simp [h0, ha, hr, startInjection, injectStep, hmr, hm1, recordFetch, nextInjectByte,
    or_assoc, hwant, getByte, getTemplate_head, Tracker.startGet, Tracker.noCaptures, prefixByte]

/-- At any other boundary the fetch is recorded, and the tracker awaits the next. -/
theorem boundaryStep_plain (hn : NotesBreak addr f s brk msg) (h0 : s.trk.hist0 = false)
    (ha : s.trk.holdArmed = false) (hr : s.trk.setRequest = none) (hg : s.trk.getRequested = false)
    (hs : s.trk.stepInto = false) (hb : checkForBreak addr f s = none) :
    boundaryStep addr data f s = (.notDecoded, s.withTrk { s.trk with
      lastBreak := brk, breakMessage := msg, hist1 := false, hist0 := prefixByte data
      state := .awaiting }) := by
  rw [boundaryStep, hn]
  simp [h0, ha, hr, hg, hs, hb, recordFetch]

end

/-! ### A cycle of an injection (45_tracker.md R324, 46_injection.md R380) -/

/-- The tracker at the end of an injection, with its snapshot taken (45_tracker.md R324). -/
def Tracker.ended (k : Tracker) : Tracker :=
  { finishRegs { k with state := .postInject, pageOut := false } with
    seqKind := .none, seq := [], cursor := 0 }

/-- The end of an injection writes the snapshot, its validity, and a GET that a SET has made needless. -/
theorem Tracker.ended_frame (k : Tracker) :
    k.ended = { k with
      state := .postInject, pageOut := false, seqKind := .none, seq := [], cursor := 0
      regs := k.ended.regs, regsValid := k.ended.regsValid, getRequested := k.ended.getRequested } := by
  unfold ended finishRegs
  split
  · split <;> rfl
  · rfl

/-- The snapshot at the end of an injection is the one before it, what a GET has read, or what a SET has
written. -/
theorem Tracker.ended_regs (k : Tracker) :
    k.ended.regs = k.regs ∨ k.ended.regs = decodeGet k.cap k.boundaryPc k.regs.im ∨
    k.seqKind = .set ∧ k.ended.regs = k.setActive := by
  unfold ended finishRegs
  split
  · split
    · exact .inr (.inl rfl)
    · rename_i hk
      exact .inr (.inr ⟨hk, rfl⟩)
    · exact .inl rfl
  · exact .inl rfl

/-- The tracker after an injection: off where a disable is pending; else it awaits the next boundary, with a
hold armed if it is to halt there (45_tracker.md R324). -/
def Tracker.finished (k : Tracker) : Tracker :=
  if k.disablePending then trackerOff k.ended
  else { k.ended with holdArmed := k.ended.holdArmed || k.ended.haltAfter, state := .awaiting }

theorem finishInjection_trk (s : State) : (finishInjection s).trk = s.trk.finished := by
  have hpending : s.trk.ended.disablePending = s.trk.disablePending := by rw [Tracker.ended_frame]
  have hfinish : finishInjection s = if s.trk.ended.disablePending then
      doDisable (s.withTrk s.trk.ended) else s.withTrk { s.trk.ended with
        holdArmed := s.trk.ended.holdArmed || s.trk.ended.haltAfter, state := .awaiting } := rfl
  rw [hfinish, hpending, Tracker.finished]
  split
  · rw [doDisable_trk, State.withTrk_trk]
  · rfl

/-- The tracker that has supplied a byte. -/
def Tracker.supply (h0 h1 : Bool) (k : Tracker) : Tracker :=
  { k with cursor := k.cursor + 1, hist1 := h1, hist0 := h0 }

/-! ### All transitions -/

/-- What the tracker `k` can become at a cycle at `addr` with flags `f` (45_tracker.md R316, R320). -/
inductive CycleHeard (addr : Addr) (f : CtrlFlags) (k : Tracker) : Tracker → Prop
  | ignored : CycleHeard addr f k k
  | supplied (h0 h1 : Bool) (hi : k.state = .injecting) (hmore : k.cursor + 1 ≠ k.seq.length) :
      CycleHeard addr f k (k.supply h0 h1)
  | finished (h0 h1 : Bool) (hi : k.state = .injecting) :
      CycleHeard addr f k (k.supply h0 h1).finished
  | captured (data : Byte) (hi : k.state = .injecting) : CycleHeard addr f k (captureWrite addr data k)
  | recorded (brk : Option (BpTable × Nat × Addr)) (msg : String) (h0 : Bool) :
      CycleHeard addr f k { k with lastBreak := brk, breakMessage := msg, hist1 := true, hist0 := h0 }
  | held (brk : Option (BpTable × Nat × Addr)) (msg : String) (h0 : Bool) (he : k.enabled = true)
      (hi : k.state ≠ .injecting) :
      CycleHeard addr f k { k with
        lastBreak := brk, breakMessage := msg, hist1 := false, hist0 := h0
        holdArmed := false, held := true, state := .awaiting }
  | setBegun (brk : Option (BpTable × Nat × Addr)) (msg : String) (halt : Bool) (r : Z80Registers)
      (he : k.enabled = true) (h0 : k.hist0 = false) (ha : k.holdArmed = false) (hf : isFetch f = true)
      (hi : k.state ≠ .injecting) (hr : k.setRequest = some r) :
      CycleHeard addr f k ({ k with lastBreak := brk, breakMessage := msg }.startSet r addr halt)
  | getBegun (brk : Option (BpTable × Nat × Addr)) (msg : String) (halt : Bool)
      (he : k.enabled = true) (h0 : k.hist0 = false) (ha : k.holdArmed = false) (hf : isFetch f = true)
      (hi : k.state ≠ .injecting) (hr : k.setRequest = none) :
      CycleHeard addr f k ({ k with lastBreak := brk, breakMessage := msg }.startGet addr halt)
  | awaited (brk : Option (BpTable × Nat × Addr)) (msg : String) (h0 : Bool) (he : k.enabled = true)
      (hi : k.state ≠ .injecting) :
      CycleHeard addr f k { k with
        lastBreak := brk, breakMessage := msg, hist1 := false, hist0 := h0, state := .awaiting }

section
variable {s : State} (addr : Addr) (data : Byte) {f : CtrlFlags}

theorem boundaryStep_heard (he : s.trk.enabled = true) (hi : s.trk.state ≠ .injecting)
    (hf : isFetch f = true) : CycleHeard addr f s.trk (boundaryStep addr data f s).2.trk := by
  obtain ⟨brk, msg, hn⟩ := notesBreak_exists addr f s
  cases h0 : s.trk.hist0 with
  | true =>
    rw [boundaryStep_inside hn h0]
    exact .recorded brk msg _
  | false =>
    cases ha : s.trk.holdArmed with
    | true =>
      rw [boundaryStep_hold hn h0 ha]
      exact .held brk msg _ he hi
    | false =>
      cases hr : s.trk.setRequest with
      | some r =>
        rw [boundaryStep_set hn h0 ha hf hr]
        exact .setBegun brk msg _ r he h0 ha hf hi hr
      | none =>
        by_cases hwant : s.trk.getRequested = true ∨ s.trk.stepInto = true ∨
            (checkForBreak addr f s).isSome = true
        · rw [boundaryStep_get hn h0 ha hf hr hwant]
          exact .getBegun brk msg _ he h0 ha hf hi hr
        · simp only [not_or, Bool.not_eq_true, Option.isSome_eq_false_iff, Option.isNone_iff_eq_none] at hwant
          obtain ⟨hg, hs, hb⟩ := hwant
          rw [boundaryStep_plain hn h0 ha hr hg hs hb]
          exact .awaited brk msg _ he hi

theorem injectStep_heard (hi : s.trk.state = .injecting) :
    CycleHeard addr f s.trk (injectStep addr data f s).2.trk := by
  have hread : ∀ u : State, (∃ h0 h1, u.trk = s.trk.supply h0 h1) →
      CycleHeard addr f s.trk (if u.trk.cursor = u.trk.seq.length then finishInjection u else u).trk := by
    rintro u ⟨h0, h1, hu⟩
    split
    · rw [finishInjection_trk, hu]
      exact .finished h0 h1 hi
    · rename_i hmore
      rw [hu] at hmore ⊢
      exact .supplied h0 h1 hi hmore
  unfold injectStep
  split
  · refine hread _ ?_
    split <;> exact ⟨_, _, rfl⟩
  · split
    · simp only
      split
      · rw [requestMirror_trk]
        exact .captured data hi
      · exact .captured data hi
    · exact .ignored

/-- Every call of the tracker's `on_wait_cycle` makes one transition. -/
theorem trackerOnWaitCycle_heard (s : State) :
    CycleHeard addr f s.trk (trackerOnWaitCycle addr data f s).2.trk := by
  unfold trackerOnWaitCycle
  split
  · exact .ignored
  · rename_i hon
    simp only [Bool.or_eq_true, Bool.not_eq_true', not_or, Bool.not_eq_false] at hon
    split
    · exact injectStep_heard addr data ‹_›
    · split
      · exact .ignored
      · exact boundaryStep_heard addr data hon.1 ‹_› (by simp_all)

end

end Sys2Proof.Machine
end

section
/-! SUPPORT. What a completed bus action and a command of the host do to the tracker, as lists of transitions
(45_tracker.md R310 to R315, R316, R328). -/

namespace Sys2Proof.Machine

/-- What the tracker `k` can become when it hears of a completed action (45_tracker.md R328). -/
inductive ActionHeard (k : Tracker) : Tracker → Prop
  | ignored : ActionHeard k k
  | reset : ActionHeard k (trackerAfterReset k)
  | disturbed (d : Bool) : ActionHeard k { k with disturbed := d }
  | mirrored (m : Memory) (v : Bool) : ActionHeard k { k with mirror := m, mirrorValid := v }

/-- Every call of the tracker's `on_bus_action_complete` makes one transition. -/
theorem trackerOnComplete_heard (a : BusAction) (reason : Byte) (o : ActOutcome) (s : State) :
    ActionHeard s.trk (trackerOnComplete a reason o s).trk := by
  cases a with
  | none => exact .ignored
  | reset =>
    rw [trackerOnComplete_reset_trk]
    exact .reset
  | nmi =>
    rw [show BusAction.nmi = actionOfPulse .nmi from rfl, trackerOnComplete_pulse_trk]
    exact .disturbed _
  | irq =>
    rw [show BusAction.irq = actionOfPulse .irq from rfl, trackerOnComplete_pulse_trk]
    exact .disturbed _
  | busRequest =>
    simp only [trackerOnComplete]
    split
    · split
      · unfold mirrorMemory
        split
        · exact .mirrored _ _
        · exact .mirrored _ _
      · exact .mirrored _ _
    · exact .ignored

/-- What the tracker `k` can become at the host's command `i` (45_tracker.md R310 to R315). -/
inductive Commanded (k : Tracker) : Instr → Tracker → Prop
  | ignored (i : Instr) : Commanded k i k
  | recalled (i : Instr) : Commanded k i { k with disablePending := false, hist0 := true, hist1 := true }
  | switchedOn (i : Instr) (hd : k.disablePending = false) (he : k.enabled = false) :
      Commanded k i { k with
        enabled := true, state := .idle, hist0 := true, hist1 := true, getRequested := true }
  | deferred (i : Instr) (hi : k.state = .injecting) : Commanded k i { k with disablePending := true }
  | switchedOff : Commanded k (.trkEnable false) (trackerOff k)
  | getAsked (i : Instr) (he : k.enabled = true) : Commanded k i { k with getRequested := true }
  | setAsked (i : Instr) (r : Z80Registers) (he : k.enabled = true) (hr : imSettable r.im) :
      Commanded k i { k with setRequest := some r }
  | halted (i : Instr) (he : k.enabled = true) : Commanded k i { k with stepInto := true }
  | stepped (i : Instr) (he : k.enabled = true) : Commanded k i { k with stepInto := true, held := false }
  | freed (i : Instr) (he : k.enabled = true) :
      Commanded k i { k with stepInto := false, holdArmed := false, held := false }

section
variable (s : State)

theorem trkEnable_commanded (e : Bool) :
    Commanded s.trk (.trkEnable e) (trkEnable e s).2.trk := by
  cases e with
  | true =>
    simp only [trkEnable, if_true]
    split
    · exact .recalled _
    · rename_i hd
      rw [Bool.not_eq_true] at hd
      split
      · have hrec : Commanded s.trk (.trkEnable true) { s.trk with
            disablePending := false, hist0 := true, hist1 := true } := .recalled _
        rwa [← hd] at hrec
      · rename_i he
        rw [enableSocket_trk, setWaitOn_trk]
        exact .switchedOn _ hd (by simpa using he)
  | false =>
    simp only [trkEnable, Bool.false_eq_true, if_false]
    split
    · exact .ignored _
    · split
      · exact .deferred _ ‹_›
      · rw [doDisable_trk]
        exact .switchedOff

theorem trkRequestGet_commanded : Commanded s.trk .trkRequestGet (trkRequestGet s).2.trk := by
  unfold trkRequestGet
  split
  · exact .getAsked _ ‹_›
  · exact .ignored _

theorem trkStartSet_commanded (r : Z80Registers) :
    Commanded s.trk .trkStartSet (trkStartSet r s).2.trk := by
  unfold trkStartSet
  split
  · exact .ignored _
  · rename_i he
    split
    · exact .setAsked _ r (by simpa using he) ‹_›
    · exact .ignored _

theorem trkStep_commanded : Commanded s.trk .trkStep (trkStep s).2.trk := by
  unfold trkStep
  split
  · rw [releaseHold_trk]
    exact .stepped _ ‹_›
  · exact .ignored _

theorem trkRun_commanded : Commanded s.trk .trkRun (trkRun s).2.trk := by
  unfold trkRun
  split
  · rw [releaseHold_trk]
    exact .freed _ ‹_›
  · exact .ignored _

theorem trkHalt_commanded : Commanded s.trk .trkHalt (trkHalt s).2.trk := by
  unfold trkHalt
  split
  · exact .halted _ ‹_›
  · exact .ignored _

end

end Sys2Proof.Machine
end

section
/-! SUPPORT. The coherence of the tracker's state machine (45_tracker.md R316, R317, R332): every transition
keeps it. -/

namespace Sys2Proof.Machine

/-- `TrackerOk` as a property of the tracker, clause by clause. -/
structure Tracker.Coherent (k : Tracker) : Prop where
  between : k.state ≠ .postInject
  seqKind : k.state = .injecting ↔ k.seqKind ≠ .none
  pageOut : k.state = .injecting ↔ k.pageOut = true
  resting : k.state ≠ .injecting → k.seq = [] ∧ k.cursor = 0
  get : k.seqKind = .get → k.seq = getTemplate
  set : k.seqKind = .set → k.seq = setTemplate k.setActive ∧ imSettable k.setActive.im
  running : k.state = .injecting → k.enabled = true ∧ 1 ≤ k.cursor ∧ k.cursor < k.seq.length
  pending : k.disablePending = true → k.state = .injecting
  off : k.enabled = false → k.state = .idle ∧ k.held = false ∧ k.holdArmed = false ∧
    k.stepInto = false ∧ k.getRequested = false ∧ k.setRequest = none
  asked : ∀ r ∈ k.setRequest, imSettable r.im
  mode : imLegal k.regs.im
  captures : k.cap.length = 23

theorem trackerOk_iff {s : State} : TrackerOk s ↔ s.trk.Coherent :=
  ⟨fun ⟨h1, h2, h3, h4, h5, h6, h7, h8, h9, h10, h11, h12⟩ =>
    ⟨h1, h2, h3, h4, h5, h6, h7, h8, h9, h10, h11, h12⟩,
   fun ⟨h1, h2, h3, h4, h5, h6, h7, h8, h9, h10, h11, h12⟩ =>
    ⟨h1, h2, h3, h4, h5, h6, h7, h8, h9, h10, h11, h12⟩⟩

theorem imLegal_of_imSettable {im : Byte} (h : imSettable im) : imLegal im := by
  obtain h | h | h := h
  · exact .inl h
  · exact .inr (.inl h)
  · exact .inr (.inr (.inl h))

namespace Tracker.Coherent

variable {k : Tracker}

/-- A tracker that is switched off. -/
theorem trackerOff (hm : imLegal k.regs.im) (hc : k.cap.length = 23) : (trackerOff k).Coherent where
  between := nofun
  seqKind := by simp [Machine.trackerOff]
  pageOut := by simp [Machine.trackerOff]
  resting _ := ⟨rfl, rfl⟩
  get := nofun
  set := nofun
  running := nofun
  pending := nofun
  off _ := ⟨rfl, rfl, rfl, rfl, rfl, rfl⟩
  asked := nofun
  mode := hm
  captures := hc

/-- A tracker that is on and awaits a boundary, with no sequence. -/
theorem awaiting (hst : k.state = .awaiting) (hk : k.seqKind = .none) (hp : k.pageOut = false)
    (hs : k.seq = []) (hcur : k.cursor = 0) (he : k.enabled = true) (hd : k.disablePending = false)
    (hr : ∀ r ∈ k.setRequest, imSettable r.im) (hm : imLegal k.regs.im) (hc : k.cap.length = 23) :
    k.Coherent where
  between := by simp [hst]
  seqKind := by simp [hst, hk]
  pageOut := by simp [hst, hp]
  resting _ := ⟨hs, hcur⟩
  get := by simp [hk]
  set := by simp [hk]
  running := by simp [hst]
  pending := by simp [hd]
  off := by simp [he]
  asked := hr
  mode := hm
  captures := hc

theorem not_pending (hk : k.Coherent) (hi : k.state ≠ .injecting) : k.disablePending = false := by
  simpa using mt hk.pending hi

theorem no_sequence (hk : k.Coherent) (hi : k.state ≠ .injecting) :
    k.seqKind = .none ∧ k.pageOut = false ∧ k.seq = [] ∧ k.cursor = 0 := by
  have hkind := hk.seqKind
  have hpage := hk.pageOut
  obtain ⟨hs, hc⟩ := hk.resting hi
  simp_all

theorem enabled (hk : k.Coherent) (hi : k.state ≠ .idle) : k.enabled = true := by
  by_contra he
  exact hi (hk.off (by simpa using he)).1

/-! ### The transitions -/

/-- An injection that has just begun, with a sequence that fits its kind. -/
theorem startSet (hk : k.Coherent) {r : Z80Registers} (hr : imSettable r.im) (he : k.enabled = true)
    (addr : Addr) (halt : Bool) : (k.startSet r addr halt).Coherent where
  between := nofun
  seqKind := by simp [Tracker.startSet]
  pageOut := by simp [Tracker.startSet]
  resting h := absurd rfl h
  get := nofun
  set _ := ⟨rfl, hr⟩
  running _ := ⟨he, le_refl 1, by simp [Tracker.startSet]⟩
  pending _ := rfl
  off h := absurd he (by simpa [Tracker.startSet] using h)
  asked := nofun
  mode := hk.mode
  captures := rfl

theorem startGet (hk : k.Coherent) (he : k.enabled = true) (addr : Addr)
    (halt : Bool) : (k.startGet addr halt).Coherent where
  between := nofun
  seqKind := by simp [Tracker.startGet]
  pageOut := by simp [Tracker.startGet]
  resting h := absurd rfl h
  get _ := rfl
  set := nofun
  running _ := ⟨he, le_refl 1, by simp [Tracker.startGet]⟩
  pending _ := rfl
  off h := absurd he (by simpa [Tracker.startGet] using h)
  asked := hk.asked
  mode := hk.mode
  captures := rfl

theorem supply (hk : k.Coherent) (hi : k.state = .injecting) (hmore : k.cursor + 1 ≠ k.seq.length)
    (h0 h1 : Bool) : (k.supply h0 h1).Coherent :=
  { hk with
    resting := fun h => absurd hi h
    running := fun _ => by
      obtain ⟨he, hpos, hlt⟩ := hk.running hi
      refine ⟨he, ?_, ?_⟩
      · exact Nat.le_add_left 1 _
      · change k.cursor + 1 < k.seq.length
        omega }

/-- The end of an injection leaves a tracker that is off, or one that awaits a boundary. -/
theorem finished (hk : k.Coherent) (hi : k.state = .injecting) (h0 h1 : Bool) :
    (k.supply h0 h1).finished.Coherent := by
  have hmode : imLegal (k.supply h0 h1).ended.regs.im := by
    obtain h | h | ⟨hset, h⟩ := (k.supply h0 h1).ended_regs <;> rw [h]
    · exact hk.mode
    · exact hk.mode
    · exact imLegal_of_imSettable (hk.set hset).2
  have hframe := (k.supply h0 h1).ended_frame
  have hcap : (k.supply h0 h1).ended.cap.length = 23 := by
    rw [hframe]
    exact hk.captures
  unfold Tracker.finished
  split
  · exact trackerOff hmode hcap
  · rename_i hd
    rw [hframe] at hmode ⊢
    exact awaiting rfl rfl rfl rfl rfl (hk.running hi).1 (by simpa using hd) hk.asked hmode hk.captures

theorem of_cycleHeard (hk : k.Coherent) {addr : Addr} {f : CtrlFlags} {k' : Tracker}
    (h : CycleHeard addr f k k') : k'.Coherent := by
  cases h with
  | ignored => exact hk
  | supplied h0 h1 hi hmore => exact hk.supply hi hmore h0 h1
  | finished h0 h1 hi => exact hk.finished hi h0 h1
  | captured data hi =>
    refine { hk with captures := ?_ }
    simp only [captureWrite]
    split
    · rw [List.length_set]
      exact hk.captures
    · exact hk.captures
  | recorded brk msg h0 => exact { hk with }
  | held brk msg h0 he hi =>
    obtain ⟨hkind, hpage, hs, hc⟩ := hk.no_sequence hi
    exact awaiting rfl hkind hpage hs hc he (hk.not_pending hi) hk.asked hk.mode hk.captures
  | setBegun brk msg halt r he h0 ha hf hi hr =>
    have hnoted : Coherent { k with lastBreak := brk, breakMessage := msg } := { hk with }
    exact hnoted.startSet (hk.asked r hr) he addr halt
  | getBegun brk msg halt he =>
    have hnoted : Coherent { k with lastBreak := brk, breakMessage := msg } := { hk with }
    exact hnoted.startGet he addr halt
  | awaited brk msg h0 he hi =>
    obtain ⟨hkind, hpage, hs, hc⟩ := hk.no_sequence hi
    exact awaiting rfl hkind hpage hs hc he (hk.not_pending hi) hk.asked hk.mode hk.captures

/-- A completed Reset leaves no injection, and the pending disable is carried out. -/
theorem afterReset (hk : k.Coherent) : (trackerAfterReset k).Coherent := by
  by_cases hi : k.state = .injecting
  · have he := (hk.running hi).1
    cases hd : k.disablePending with
    | true =>
      have hoff : trackerAfterReset k = Machine.trackerOff
          { k with hist0 := true, hist1 := true, regsValid := false } := by
        simp [trackerAfterReset, Machine.trackerOff, hi, hd]
      rw [hoff]
      exact trackerOff hk.mode hk.captures
    | false =>
      simp only [trackerAfterReset, hi, hd, if_true, Bool.false_eq_true, if_false]
      exact awaiting rfl rfl rfl rfl rfl he rfl hk.asked hk.mode hk.captures
  · simp only [trackerAfterReset, hi, if_false]
    refine { hk with off := fun he => ?_ }
    obtain ⟨hst, -, -, hrest⟩ := hk.off he
    exact ⟨hst, rfl, rfl, hrest⟩

theorem of_actionHeard (hk : k.Coherent) {k' : Tracker} (h : ActionHeard k k') : k'.Coherent := by
  cases h with
  | ignored => exact hk
  | reset => exact hk.afterReset
  | disturbed d => exact { hk with }
  | mirrored m v => exact { hk with }

theorem of_commanded (hk : k.Coherent) {i : Instr} {k' : Tracker} (h : Commanded k i k') :
    k'.Coherent := by
  cases h with
  | ignored => exact hk
  | recalled => exact { hk with pending := nofun }
  | switchedOn _ hd he =>
    have hidle := (hk.off he).1
    obtain ⟨hkind, hpage, hs, hc⟩ := hk.no_sequence (by simp [hidle])
    exact { hk with
      between := nofun
      seqKind := by simp [hkind]
      pageOut := by simp [hpage]
      resting := fun _ => ⟨hs, hc⟩
      running := nofun
      pending := by simp [hd]
      off := nofun }
  | deferred _ hi => exact { hk with pending := fun _ => hi }
  | switchedOff => exact trackerOff hk.mode hk.captures
  | getAsked _ he => exact { hk with off := by simp [he] }
  | setAsked _ r he hr => exact { hk with off := by simp [he], asked := by simpa using hr }
  | halted _ he => exact { hk with off := by simp [he] }
  | stepped _ he => exact { hk with off := by simp [he] }
  | freed _ he => exact { hk with off := by simp [he] }

end Tracker.Coherent
end Sys2Proof.Machine
end

section
/-! SUPPORT. The bytes of the Z80 decode to rows of 46_injection.md R361 only. -/

namespace Sys2Proof

section
variable {bs rest : List Byte} {i : Instr}

theorem operand8_isZ80 {mk : Byte → Instr} (hmk : ∀ n, (mk n).isZ80 = true)
    (h : operand8 mk bs = .ok (i, rest)) : i.isZ80 = true := by
  unfold operand8 at h
  split at h <;> cases h
  exact hmk _

theorem operand16_isZ80 {mk : BitVec 16 → Instr} (hmk : ∀ nn, (mk nn).isZ80 = true)
    (h : operand16 mk bs = .ok (i, rest)) : i.isZ80 = true := by
  unfold operand16 at h
  split at h <;> cases h
  exact hmk _

theorem decodeEd_isZ80 (h : decodeEd bs = .ok (i, rest)) : i.isZ80 = true := by
  unfold decodeEd at h
  split at h
  · cases h
  · split at h
    case h_1 | h_5 => exact operand16_isZ80 (fun _ => rfl) h
    case h_10 => cases h
    all_goals cases h; rfl

theorem decodeDd_isZ80 (h : decodeDd bs = .ok (i, rest)) : i.isZ80 = true := by
  unfold decodeDd at h
  split at h
  · cases h
  · split at h
    · exact operand16_isZ80 (fun _ => rfl) h
    · cases h; rfl
    · cases h

theorem decodeFd_isZ80 (h : decodeFd bs = .ok (i, rest)) : i.isZ80 = true := by
  unfold decodeFd at h
  split at h
  · cases h
  · split at h
    · exact operand16_isZ80 (fun _ => rfl) h
    · cases h; rfl
    · cases h

theorem decodeZ80_isZ80 (h : decodeZ80 bs = .ok (i, rest)) : i.isZ80 = true := by
  unfold decodeZ80 at h
  split at h
  · cases h
  · split at h
    case h_4 | h_9 => exact operand8_isZ80 (fun _ => rfl) h
    case h_1 | h_3 | h_5 | h_6 | h_7 | h_8 | h_10 => exact operand16_isZ80 (fun _ => rfl) h
    case h_12 => exact decodeDd_isZ80 h
    case h_13 => exact decodeEd_isZ80 h
    case h_18 => exact decodeFd_isZ80 h
    case h_19 => cases h
    all_goals cases h; rfl

end

end Sys2Proof
end

section
/-! SUPPORT. What a step does to the tracker: the transitions of the tracker's callbacks, one after the other,
or those of a command of the host (45_tracker.md R316). -/

namespace Sys2Proof.Machine

open Relation

/-! ### The callbacks of all sockets -/

theorem nextWaitReply_trk (h : Nat) (s : State) : (nextWaitReply h s).2.trk = s.trk := by
  obtain ⟨_, _, -, hn⟩ | ⟨_, hn⟩ | ⟨-, hn⟩ := nextWaitReply_cases h s <;> rw [hn] <;> rfl

/-- In a fan-out the tracker makes the transitions of its calls. -/
theorem fanOut_heard (addr : Addr) (data : Byte) (f : CtrlFlags) (hs : List Nat) (s : State) :
    ReflTransGen (CycleHeard addr f) s.trk (fanOut addr data f hs s).2.trk :=
  fanOut_keeps (P := fun u => ReflTransGen (CycleHeard addr f) s.trk u.trk)
    (fun h u hu _ => callWait_keeps (P := fun u => ReflTransGen (CycleHeard addr f) s.trk u.trk)
      (fun _ hv => hv) (fun v hv _ => hv.tail (trackerOnWaitCycle_heard addr data v))
      (fun v hv _ => by rwa [nextWaitReply_trk])
      (fun cs v hv => by rwa [runCallbackCommands_trk]) hu) hs .refl

/-- In a notification the tracker makes the transitions of its calls. -/
theorem notifyAll_heard (a : BusAction) (reason : Byte) (o : ActOutcome) (s : State) :
    ReflTransGen ActionHeard s.trk (notifyAll a reason o s).trk :=
  completeAll_keeps (P := fun u => ReflTransGen ActionHeard s.trk u.trk)
    (fun h u hu => callDone_keeps (P := fun u => ReflTransGen ActionHeard s.trk u.trk)
      (fun _ hv => hv) (fun v hv _ => hv.tail (trackerOnComplete_heard a reason o v))
      (fun v hv _ => by rwa [nextDoneReply_trk])
      (fun cs v hv => by rwa [runCallbackCommands_trk]) hu) _ .refl

/-- A notification leaves the record of the cycle last decoded. -/
theorem notifyAll_cur (a : BusAction) (reason : Byte) (o : ActOutcome) (s : State) :
    (notifyAll a reason o s).eng.wait.cur = s.eng.wait.cur := by
  have hframe : ∀ {u v : State}, u.eng.wait.cur = s.eng.wait.cur → CallbackFrame u v →
      v.eng.wait.cur = s.eng.wait.cur :=
    fun hu h => Eq.trans (congrArg (fun e : Engine => e.wait.cur) h.engine :) hu
  have htake : ∀ u : State, u.eng.wait.cur = s.eng.wait.cur →
      (requestAndTake u).2.eng.wait.cur = s.eng.wait.cur := by
    intro u hu
    obtain h | ⟨-, -, h | h⟩ := requestAndTake_cases u <;> rw [h]
    · exact hu
    · rw [takeMastership_frame, State.withEng_eng, awaitBusack_eng]
      exact hu
    · rw [deassertLine_eng_wait, awaitBusack_eng]
      exact hu
  exact (CallbackStable.of_frame (P := fun u : State => u.eng.wait.cur = s.eng.wait.cur) hframe).notifyAll
    rfl (fun _ _ => transferStable_of_mastership htake fun _ hu => hu) reason

/-- The tracker has heard of completed actions only, and the cycle last decoded is the same. -/
structure Reported (s t : State) : Prop where
  trk : ReflTransGen ActionHeard s.trk t.trk
  cur : t.eng.wait.cur = s.eng.wait.cur

namespace Reported

variable {s t u : State}

theorem of_eq (htrk : t.trk = s.trk) (hcur : t.eng.wait.cur = s.eng.wait.cur) : Reported s t :=
  ⟨by rw [htrk], hcur⟩

theorem refl (s : State) : Reported s s := of_eq rfl rfl

theorem trans (h : Reported s t) (g : Reported t u) : Reported s u :=
  ⟨h.trk.trans g.trk, g.cur.trans h.cur⟩

theorem of_worldMove (h : WorldMove s t) : Reported s t := of_eq h.block.trk (by rw [h.eng])

theorem now (s : State) : Reported s (now s).2 := of_worldMove (now_worldMove s)

theorem deassertLine (a : BusAction) (s : State) : Reported s (deassertLine a s) :=
  of_eq (deassertLine_trk a s) (by rw [deassertLine_eng_wait])

theorem assertLine (a : BusAction) (s : State) : Reported s (assertLine a s) :=
  of_eq (assertLine_trk a s) (by rw [assertLine_eng_wait])

theorem setAct (a : BusActionState) (s : State) : Reported s (setAct a s) := of_eq rfl rfl

theorem clearAction (s : State) : Reported s (clearAction s) := setAct _ s

theorem awaitBusack (s : State) : Reported s (awaitBusack s).2 :=
  (assertLine .busRequest s).trans (of_worldMove (awaitBusack_onlyTime s).worldMove)

theorem takeMastership (s : State) : Reported s (takeMastership s) := of_eq rfl rfl

theorem releaseMastership (s : State) : Reported s (releaseMastership s) := of_eq rfl rfl

theorem notifyAll (a : BusAction) (reason : Byte) (o : ActOutcome) (s : State) :
    Reported s (notifyAll a reason o s) := ⟨notifyAll_heard a reason o s, notifyAll_cur a reason o s⟩

theorem advancePending (s : State) : Reported s (advancePending s) := by
  obtain h | h | ⟨-, -, h⟩ := advancePending_cases s <;> rw [h]
  · exact refl s
  · exact now s
  · exact ((now s).trans (deassertLine _ _)).trans ((notifyAll _ _ _ _).trans (clearAction _))

theorem actionTimeoutCheck (s : State) : Reported s (actionTimeoutCheck s) := by
  obtain h | h | ⟨-, h⟩ | ⟨-, h⟩ := actionTimeoutCheck_cases s <;> rw [h]
  · exact refl s
  · exact now s
  · exact ((now s).trans (deassertLine _ _)).trans ((clearAction _).trans (notifyAll _ _ _ _))
  · exact (now s).trans ((clearAction _).trans (notifyAll _ _ _ _))

theorem checkPending (s : State) : Reported s (checkPending s) := by
  obtain h | ⟨-, -, j, _, _, k, -, -, h⟩ := checkPending_cases s <;> rw [h]
  · exact refl s
  · have hslot : Reported s (setSock j k s) := of_eq rfl rfl
    exact hslot.trans ((now _).trans (setAct _ _))

theorem startPending (s : State) : Reported s (startPending s).2 := by
  obtain h | ⟨-, -, d, h⟩ | ⟨-, -, h⟩ := startPending_cases s <;> rw [h]
  · exact refl s
  · exact ((assertLine _ s).trans (setAct _ _)).trans ((now _).trans (setAct _ _))
  · obtain h | h := busRequestHandshake_cases s <;> rw [h]
    · exact ((awaitBusack s).trans (takeMastership _)).trans
        ((clearAction _).trans ((notifyAll _ _ _ _).trans (releaseMastership _)))
    · exact ((awaitBusack s).trans (deassertLine _ _)).trans
        ((clearAction _).trans (notifyAll _ _ _ _))

/-- In the action half of a tick the tracker only hears of completed actions. -/
theorem tickActions (s : State) : Reported s (tickActions s) := by
  have h := (advancePending s).trans (actionTimeoutCheck _)
  unfold Machine.tickActions
  simp only
  split
  · exact h.trans ((checkPending _).trans (startPending _))
  · exact h

end Reported

/-! ### The wait half of a tick -/

namespace SameTable

variable {s t u : State}

theorem refl (s : State) : SameTable s s := ⟨rfl, rfl, rfl, fun _ => SameOwner.refl _, rfl, rfl, rfl⟩

theorem trans (h : SameTable s t) (g : SameTable t u) : SameTable s u :=
  ⟨g.cfg.trans h.cfg, g.length.trans h.length, g.numSockets.trans h.numSockets,
    fun j => ⟨(g.owner j).registered.trans (h.owner j).registered,
      (g.owner j).onWait.trans (h.owner j).onWait, (g.owner j).onDone.trans (h.owner j).onDone⟩,
    g.handle.trans h.handle, g.fast.trans h.fast, g.slow.trans h.slow⟩

theorem move (h : WorldMove s t) : SameTable s t := by
  obtain ⟨hcfg, heng, htrk, hbp, -⟩ := h.block
  refine ⟨hcfg, by rw [heng], by rw [heng], fun j => ?_, by rw [htrk], by rw [hbp], by rw [hbp]⟩
  rw [sockAt_congr (by rw [heng])]
  exact SameOwner.refl _

/-- The wait in progress and the counters are no part of the table. -/
theorem withWait (s : State) (w : WaitState) (c : Counters) :
    SameTable s (s.withEng { s.eng with wait := w, counters := c }) :=
  ⟨rfl, rfl, rfl, fun _ => SameOwner.refl _, rfl, rfl, rfl⟩

theorem callbackStable (s : State) : CallbackStable (SameTable s) where
  move hs h := hs.trans (SameTable.move h)
  trk _ hs hk := hs.trans ⟨rfl, rfl, rfl, fun _ => SameOwner.refl _, hk, rfl, rfl⟩
  bp _ hs hfast hslow := hs.trans ⟨rfl, rfl, rfl, fun _ => SameOwner.refl _, rfl, hfast, hslow⟩
  flags {u} h f hs hf := by
    by_cases hh : h < u.eng.numSockets
    · rw [changeSocket_ok hh]
      obtain ⟨hcfg, hlen, hnum, howner, hhandle, hfast, hslow⟩ := setSock_sameTable (hf (sockAt u h))
      exact hs.trans ⟨hcfg, hlen, hnum, howner, hhandle, hfast, hslow⟩
    · rwa [changeSocket_bad hh]
  slot _ _ hs hk := hs.trans (setSock_sameTable hk.toSameOwner)

end SameTable

/-- The wait callbacks keep the shape of the table. -/
theorem TableOk.callWait {s : State} (hs : TableOk s) (h : Nat) (addr : Addr) (data : Byte)
    (f : CtrlFlags) : TableOk (callWait h addr data f s).2 := by
  have hP := SameTable.callbackStable s
  exact SameTable.tableOk (callWait_keeps (P := SameTable s) (fun _ hv => hP.logCall hv _)
    (fun _ hv _ => hP.trackerOnWaitCycle hv _ _ _) (fun _ hv _ => hP.nextWaitReply hv h)
    (fun cs _ hv => hP.runCallbackCommands (fun hm => absurd hm Bool.false_ne_true) hv h cs)
    (SameTable.refl s)) hs

/-- Only slot 0 is the tracker's. -/
theorem TableOk.onWaitCycle_ne_tracker {s : State} (hs : TableOk s) {h : Nat} (h0 : h ≠ 0) :
    (sockAt s h).onWaitCycle ≠ .tracker := by
  obtain ⟨hlen, -, -, -, hcoll, -⟩ := hs
  by_cases hh : h < s.cfg.maxSockets
  · exact (hcoll h hh (Nat.pos_of_ne_zero h0)).1
  · rw [sockAt_outside (by omega)]
    nofun

section
variable (addr : Addr) (data : Byte) (f : CtrlFlags)

theorem callWait_trk_collaborator {h : Nat} {s : State} (hk : (sockAt s h).onWaitCycle ≠ .tracker) :
    (callWait h addr data f s).2.trk = s.trk := by
  have hcall : callWait h addr data f s =
      ((nextWaitReply h (logCall (.waitCycle h addr data f) s)).1.decision,
        runCallbackCommands h false (nextWaitReply h (logCall (.waitCycle h addr data f) s)).1.cmds
          (nextWaitReply h (logCall (.waitCycle h addr data f) s)).2) := if_neg hk
  rw [hcall, runCallbackCommands_trk, nextWaitReply_trk, logCall_trk]

theorem fanOut_trk_collaborators {hands : List Nat} (h0 : 0 ∉ hands) {s : State} (hs : TableOk s) :
    (fanOut addr data f hands s).2.trk = s.trk := by
  induction hands generalizing s with
  | nil => rfl
  | cons h hands ih =>
    obtain ⟨hne, hrest⟩ := not_or.mp (mt List.mem_cons.mpr h0)
    cases he : (sockAt s h).enabled with
    | false =>
      rw [fanOut_passed he]
      exact ih hrest hs
    | true =>
      rw [fanOut_called he]
      exact (ih hrest (hs.callWait h addr data f)).trans
        (callWait_trk_collaborator addr data f (hs.onWaitCycle_ne_tracker (Ne.symm hne)))

/-- In a fan-out over the registered sockets the tracker makes one transition: it is called at most once. -/
theorem fanOut_heard_once {s : State} (hs : TableOk s) :
    CycleHeard addr f s.trk (fanOut addr data f (handles s) s).2.trk := by
  have ⟨_, hone, _, _, _, _, hwait, _⟩ := hs
  obtain ⟨n, hn⟩ := Nat.exists_eq_add_of_le' hone
  have hothers : 0 ∉ (List.range n).map Nat.succ := by simp
  rw [handles, hn, List.range_succ_eq_map]
  cases he : (sockAt s 0).enabled with
  | false =>
    rw [fanOut_passed he, fanOut_trk_collaborators addr data f hothers hs]
    exact .ignored
  | true =>
    have hfirst : callWait 0 addr data f s =
        trackerOnWaitCycle addr data f (logCall (.waitCycle 0 addr data f) s) := if_pos hwait
    rw [fanOut_called he, fanOut_trk_collaborators addr data f hothers (hs.callWait 0 addr data f), hfirst]
    exact trackerOnWaitCycle_heard addr data (logCall (.waitCycle 0 addr data f) s)

end

/-! ### The cycle decoded -/

theorem completeServiced_trk (s : State) : (completeServiced s).trk = s.trk := by
  have hrel := (releaseWait_sameBlock (drivenByte s.eng.wait.cur) s).trk
  simp [completeServiced, setWaitState, hrel]

theorem completeServiced_cur (s : State) : (completeServiced s).eng.wait.cur = s.eng.wait.cur := by
  simp [completeServiced, setWaitState, releaseWait_eng]

theorem holdOrComplete_trk (z : State) : (holdOrComplete z).trk = z.trk := by
  unfold holdOrComplete
  split
  · rfl
  · exact completeServiced_trk z

theorem holdOrComplete_cur (z : State) : (holdOrComplete z).eng.wait.cur = z.eng.wait.cur := by
  unfold holdOrComplete
  split
  · rfl
  · exact completeServiced_cur z

theorem decodeTimeout_trk (s : State) : (decodeTimeout s).trk = s.trk := by
  simp [decodeTimeout, setWaitState, (releaseWait_sameBlock none _).trk]

/-- The address is read from the cycle in a wait alone (20_memory.md R85). -/
theorem sampleAddr_congr {s t : State} (h : t.world.present = s.world.present) :
    sampleAddr t = sampleAddr s := by
  rw [sampleAddr, sampleAddr, h]

theorem sampleAddr_of_present {s : State} {c : Presented} (h : s.world.present = some c) :
    sampleAddr s = c.addr := by
  rw [sampleAddr, h]

/-- A sample of the control lines leaves the address of the cycle. -/
theorem sampleCtrl_sampleAddr (s : State) : sampleAddr (sampleCtrl s).2 = sampleAddr s := by
  cases hp : s.world.present with
  | none => simp [sampleCtrl, hp]
  | some c =>
    cases hs : c.settle with
    | nil => rw [sampleCtrl_settled hp hs]
    | cons f fs =>
      rw [sampleAddr_of_present hp]
      cases hv : validSettled (sixFlags f) with
      | true => rw [sampleCtrl_settles hp hs hv]; rfl
      | false => rw [sampleCtrl_unsettled hp hs hv]; rfl

theorem settleLoop_sampleAddr (n : Nat) (s : State) : sampleAddr (settleLoop n s).2 = sampleAddr s := by
  induction n generalizing s with
  | zero => rfl
  | succ n ih =>
    simp only [settleLoop]
    split
    · exact sampleCtrl_sampleAddr s
    · exact (ih _).trans (sampleCtrl_sampleAddr s)

/-- From `s` the cycle at `addr` has been shown to the sockets with flags `f`, and recorded in `t`. -/
structure Shown (addr : Addr) (s t : State) : Prop where
  fanned : ∃ y data, SameTable s y ∧ y.trk = s.trk ∧
    t.trk = (fanOut addr data t.eng.wait.cur.flags (handles y) y).2.trk
  addr : t.eng.wait.cur.addr = addr

theorem Shown.of_sameTable {addr : Addr} {s x t : State} (h : Shown addr x t) (hs : SameTable s x)
    (htrk : x.trk = s.trk) : Shown addr s t := by
  obtain ⟨y, data, hy, hyt, hfan⟩ := h.fanned
  exact ⟨⟨y, data, hs.trans hy, hyt.trans htrk, hfan⟩, h.addr⟩

theorem dispatchCycle_shown (f : CtrlFlags) (s : State) :
    Shown (sampleAddr s) s (dispatchCycle f s) := by
  have hmove := (sampleCtrl_worldMove s).trans (sampleData_worldMove _)
  have haddr : pair (hi (sampleAddr (sampleCtrl s).2)) (lo (sampleAddr (sampleCtrl s).2)) = sampleAddr s := by
    rw [pair_hi_lo, sampleCtrl_sampleAddr]
  generalize hr : fanOut (sampleAddr s) (sampleData (sampleCtrl s).2).1
    (setWait (setM1 f (flagM1 (sampleCtrl s).1))) (handles (sampleData (sampleCtrl s).2).2)
    (sampleData (sampleCtrl s).2).2 = r
  have hdispatch : dispatchCycle f s = holdOrComplete (setWaitState { r.2.eng.wait with
      cur := { addr := sampleAddr s, data := (sampleData (sampleCtrl s).2).1
               flags := setWait (setM1 f (flagM1 (sampleCtrl s).1)), merged := mergeDecisions r.1 } } r.2) := by
    rw [← hr, ← haddr]
    rfl
  refine ⟨⟨_, (sampleData (sampleCtrl s).2).1, SameTable.move hmove, hmove.block.trk, ?_⟩, ?_⟩
  · rw [hdispatch, holdOrComplete_trk, holdOrComplete_cur]
    exact congrArg (fun q : List Decision × State => q.2.trk) hr.symm
  · rw [hdispatch, holdOrComplete_cur]
    rfl

theorem decodeAndDispatch_shown (s : State) :
    (decodeAndDispatch s).trk = s.trk ∨ Shown (sampleAddr s) s (decodeAndDispatch s) := by
  have hloop := settleLoop_worldMove s.cfg.settleRetries s
  have haddr := settleLoop_sampleAddr s.cfg.settleRetries s
  unfold decodeAndDispatch
  split <;> (rename_i heq; rw [heq] at hloop haddr)
  · exact .inl ((decodeTimeout_trk _).trans hloop.block.trk)
  · refine .inr ?_
    rw [← haddr]
    exact (dispatchCycle_shown _ _).of_sameTable (SameTable.move hloop) hloop.block.trk

/-- The detect step leaves the tracker, or latches the wait of a cycle and has it decoded. -/
theorem waitDetect_decodes (s : State) :
    (waitDetect s).trk = s.trk ∨ ∃ c x, s.world.present = some c ∧ sampleAddr x = c.addr ∧
      SameTable s x ∧ x.trk = s.trk ∧ waitDetect s = decodeAndDispatch x := by
  have hack := sampleBusack_worldMove s
  unfold waitDetect
  simp only
  split
  · rename_i hw
    simp only [Bool.and_eq_true, sampleWait, Option.isSome_iff_exists] at hw
    obtain ⟨⟨c, hc⟩, -⟩ := hw
    refine .inr ⟨c, _, hc, ?_, ?_, ?_, rfl⟩
    · exact sampleAddr_of_present (by simpa [setWaitState] using hc)
    · exact ((SameTable.move hack).trans (SameTable.withWait _ _ _)).trans
        ((SameTable.move (now_worldMove _)).trans (SameTable.withWait _ _ _))
    · simp [setWaitState]
  · exact .inl hack.block.trk

/-- The wait half of a tick leaves the tracker, or latches the wait of a cycle and shows it to the sockets. -/
theorem tickWait_shown (s : State) :
    (tickWait s).trk = s.trk ∨
    s.eng.wait.asserted = false ∧ ∃ c, s.world.present = some c ∧ Shown c.addr s (tickWait s) := by
  unfold tickWait
  split
  · rename_i ha
    obtain h | ⟨c, x, hc, haddr, htable, htrk, h⟩ := waitDetect_decodes s
    · exact .inl h
    · rw [h]
      obtain hdec | hdec := decodeAndDispatch_shown x
      · exact .inl (hdec.trans htrk)
      · exact .inr ⟨by simpa using ha, c, hc, haddr ▸ hdec.of_sameTable htable htrk⟩
  · split
    · exact .inl (completeServiced_trk s)
    · exact .inl rfl

theorem diagEvents_sameTable (s : State) : SameTable s (diagEvents s) := by
  obtain ⟨d, v, h, -⟩ := diagEvents_redress s
  rw [h]
  exact ⟨rfl, rfl, rfl, fun _ => SameOwner.refl _, rfl, rfl, rfl⟩

/-- As `tickWait_shown`, with the diagnostic events before it. -/
theorem afterWait_shown (s : State) :
    (afterWait s).trk = s.trk ∨
    s.eng.wait.asserted = false ∧ ∃ c, s.world.present = some c ∧ Shown c.addr s (afterWait s) := by
  have htrk := (diagEvents_onlyDiag s).trk
  obtain h | ⟨ha, c, hc, h⟩ := tickWait_shown (diagEvents s)
  · exact .inl (h.trans htrk)
  · rw [diagEvents_wait] at ha
    rw [diagEvents_present] at hc
    exact .inr ⟨ha, c, hc, h.of_sameTable (diagEvents_sameTable s) htrk⟩

/-! ### A whole step -/

theorem bpWrite_trk (t : BpTable) (i : Nat) (e : Breakpoint) (s : State) :
    (bpWrite t i e s).trk = s.trk := by
  rw [bpWrite_frame, State.withBp_trk]

theorem addSocket_trk (info : SocketInfo) (w : WaitCallback) (d : DoneCallback) (s : State) :
    (addSocket info w d s).2.trk = s.trk := by
  by_cases hf : s.eng.numSockets = s.cfg.maxSockets
  · rw [addSocket_full hf]
  · rw [addSocket_free hf]
    rfl

theorem releaseBus_trk (s : State) : (releaseBus s).2.trk = s.trk := by
  unfold releaseBus
  split
  · rw [releaseMastership_frame, State.withEng_trk]
  · rfl

theorem bpSet_trk (t : BpTable) (i : Nat) (pc : Addr) (msg : String) (s : State) :
    (bpSet t i pc msg s).2.trk = s.trk := by
  unfold bpSet
  split
  · exact bpWrite_trk _ _ _ _
  · rfl

theorem bpClear_trk (t : BpTable) (i : Nat) (s : State) : (bpClear t i s).2.trk = s.trk := by
  unfold bpClear
  split
  · exact bpWrite_trk _ _ _ _
  · rfl

/-- All that an instruction of the host can do to the tracker: a command of it, a report of completed actions,
or a tick. -/
theorem exec_tracker {i : Instr} {s t : State} (hh : s.port.issuer = .host) (h : exec i s = .next t) :
    Commanded s.trk i t.trk ∨ ReflTransGen ActionHeard s.trk t.trk ∨ Reported (afterWait s) t := by
  by_cases hz : i.isZ80 = true
  · rw [(exec_z80_sameBlock hz h).trk]
    exact .inl (.ignored _)
  have hsame : t.trk = s.trk → Commanded s.trk i t.trk := fun h => by rw [h]; exact .ignored _
  cases i with
  | serviceTick =>
    cases h
    have hactions := Reported.tickActions (afterWait s)
    exact .inr (.inr ⟨hactions.trk, hactions.cur⟩)
  | checkPending => cases h; exact .inr (.inl (Reported.checkPending s).trk)
  | startPending => cases h; exact .inr (.inl (Reported.startPending s).trk)
  | advancePending => cases h; exact .inr (.inl (Reported.advancePending s).trk)
  | trkEnable e => cases h; exact .inl (trkEnable_commanded s e)
  | trkRequestGet => cases h; exact .inl (trkRequestGet_commanded s)
  | trkStartSet => cases h; exact .inl (trkStartSet_commanded s _)
  | trkStep => cases h; exact .inl (trkStep_commanded s)
  | trkRun => cases h; exact .inl (trkRun_commanded s)
  | trkHalt => cases h; exact .inl (trkHalt_commanded s)
  | onWaitCycle =>
    rw [show exec .onWaitCycle s = finish (invalid, s) by simp [exec, execOnWaitCycle, hh]] at h
    cases h
    exact .inl (.ignored _)
  | onBusActionComplete =>
    rw [show exec .onBusActionComplete s = finish (invalid, s) by
      simp [exec, execOnBusActionComplete, hh]] at h
    cases h
    exact .inl (.ignored _)
  | addSocket => cases h; exact .inl (hsame (addSocket_trk _ _ _ s))
  | enableSocket h' e => cases h; exact .inl (hsame (enableSocket_trk _ _ s))
  | setWaitOn h' m io => cases h; exact .inl (hsame (setWaitOn_trk _ _ _ s))
  | setHold h' d => cases h; exact .inl (hsame (setHold_trk _ _ s))
  | requestAction h' r a => cases h; exact .inl (hsame (requestAction_slotsOrTables _ _ _ s).trk)
  | requestBus h' r => cases h; exact .inl (hsame (requestBus_trk _ _ s))
  | requestAndTake => cases h; exact .inl (hsame (requestAndTake_transferFrame s).trk)
  | release => cases h; exact .inl (hsame (releaseBus_trk s))
  | blockRead auto io a => cases h; exact .inl (hsame (blockRead_transferFrame _ _ _ _ s).trk)
  | blockWrite auto io a => cases h; exact .inl (hsame (blockWrite_transferFrame _ _ _ _ s).trk)
  | bpSet t' i pc => cases h; exact .inl (hsame (bpSet_trk _ _ _ _ s))
  | bpClear t' i => cases h; exact .inl (hsame (bpClear_trk _ _ s))
  | bpGlobalEnable e => cases h; exact .inl (.ignored _)
  | checkForBreak f a => cases h; exact .inl (.ignored _)
  | isPrefix b => cases h; exact .inl (.ignored _)
  | _ => exact absurd rfl hz

theorem nextTurn_present (s : State) : (nextTurn s).2.world.present = s.world.present := by
  unfold nextTurn
  split <;> rfl

/-- From `s` a command of the host begins in `u`: its payload is at the port. -/
structure HostTurn (s u : State) : Prop where
  issuer : u.port.issuer = .host
  table : SameTable s u
  trk : u.trk = s.trk
  eng : u.eng = s.eng
  present : u.world.present = s.world.present

theorem hostTurn_atPort (p : Payload) (s : State) : HostTurn s (atPort p (nextTurn s).2) := by
  have hmove := nextTurn_worldMove s
  have hport : SameTable (nextTurn s).2 (atPort p (nextTurn s).2) :=
    ⟨rfl, rfl, rfl, fun _ => SameOwner.refl _, rfl, rfl, rfl⟩
  exact ⟨rfl, (SameTable.move hmove).trans hport, hmove.block.trk, hmove.eng, nextTurn_present s⟩

/-- A step that is no command of the host leaves the tracker. -/
theorem step_tracker {s t : State} (h : step s = .next t) :
    t.trk = s.trk ∨ ∃ w p i u, (nextTurn s).1 = .host w p ∧ decodeCommand w = .ok i ∧
      HostTurn s u ∧ exec i u = .next t := by
  have hturn := (nextTurn_worldMove s).block.trk
  have hhost := fun p => hostTurn_atPort p s
  unfold step at h
  generalize nextTurn s = r at h hturn hhost ⊢
  obtain ⟨u, s1⟩ := r
  simp only at h hturn hhost ⊢
  cases u with
  | host w p =>
    simp only [takeTurn, hostTurn] at h
    split at h
    · rename_i i hi
      exact .inr ⟨w, p, i, _, rfl, hi, hhost p, h⟩
    · cases h
      exact .inl hturn
  | z80 =>
    refine .inl (Eq.trans ?_ hturn)
    simp only [takeTurn, z80Turn] at h
    split at h
    · split at h
      · rename_i i rest hi
        exact (exec_z80_sameBlock (decodeZ80_isZ80 hi) h).trk
      · cases h
        exact (z80Cycle_sameBlock s1).trk
    · cases h
      exact (z80Cycle_sameBlock s1).trk
  | outside m =>
    cases h
    exact .inl ((outsideMove_sameBlock m s1).trk.trans hturn)

end Sys2Proof.Machine
end

section
/-! SUPPORT. The tracker's state machine along a step (45_tracker.md R316, R317, R332): it stays coherent, and
where it enters Injecting and Idle. -/

namespace Sys2Proof.Machine

open Relation

/-! ### Coherence -/

/-- What one transition keeps, transitions one after the other keep. -/
theorem keeps_of_reflTransGen {r : Tracker → Tracker → Prop} {Q : Tracker → Prop}
    (hr : ∀ k k', Q k → r k k' → Q k') {k k' : Tracker} (h : ReflTransGen r k k') (hk : Q k) : Q k' := by
  induction h with
  | refl => exact hk
  | tail _ hlast ih => exact hr _ _ ih hlast

/-- In the wait half of a tick the tracker makes the transitions of one cycle. -/
theorem afterWait_heard (s : State) :
    ∃ addr f, ReflTransGen (CycleHeard addr f) s.trk (afterWait s).trk := by
  obtain h | ⟨-, c, -, hshown⟩ := afterWait_shown s
  · exact ⟨0, 0, by rw [h]⟩
  · obtain ⟨y, data, -, hy, hfan⟩ := hshown.fanned
    rw [hfan, ← hy]
    exact ⟨_, _, fanOut_heard _ _ _ _ y⟩

/-- A property that every transition keeps, a command of the host keeps that is none of the tracker's. -/
theorem exec_keeps {Q : Tracker → Prop} (hc : ∀ k addr f k', Q k → CycleHeard addr f k k' → Q k')
    (ha : ∀ k k', Q k → ActionHeard k k' → Q k') {i : Instr} {s t : State}
    (hh : s.port.issuer = .host) (h : exec i s = .next t) (hs : Q s.trk) :
    Commanded s.trk i t.trk ∨ Q t.trk := by
  obtain hcmd | hdone | htick := exec_tracker hh h
  · exact .inl hcmd
  · exact .inr (keeps_of_reflTransGen ha hdone hs)
  · obtain ⟨addr, f, hwait⟩ := afterWait_heard s
    exact .inr (keeps_of_reflTransGen ha htick.trk
      (keeps_of_reflTransGen (fun k k' => hc k addr f k') hwait hs))

/-- Settles O56: each transition of the tracker keeps it coherent. -/
theorem stepKeepsTrackerCoherent : Obligations.StepKeepsTrackerCoherent := by
  intro s t hs h
  rw [trackerOk_iff] at hs ⊢
  obtain htrk | ⟨w, p, i, u, -, -, hturn, hexec⟩ := step_tracker h
  · rwa [htrk]
  · have hstart : u.trk.Coherent := hturn.trk ▸ hs
    obtain hcmd | ht := exec_keeps (fun _ _ _ _ hk => hk.of_cycleHeard)
      (fun _ _ hk => hk.of_actionHeard) hturn.issuer hexec hstart
    · exact hstart.of_commanded hcmd
    · exact ht

/-! ### Entering Injecting -/

/-- The tracker is injecting, from the boundary `pc` and at byte `n` of its sequence. -/
def Tracker.InjectsFrom (pc : Addr) (n : Nat) (k : Tracker) : Prop :=
  k.state = .injecting ∧ k.boundaryPc = pc ∧ k.cursor = n

/-- No completed action begins an injection, or moves in one. -/
theorem ActionHeard.injectsFrom {k k' : Tracker} {pc : Addr} {n : Nat} (h : ActionHeard k k')
    (hk' : k'.InjectsFrom pc n) : k.InjectsFrom pc n := by
  cases h with
  | ignored => exact hk'
  | reset =>
    obtain ⟨hst, hpc, hn⟩ := hk'
    unfold trackerAfterReset at hst hpc hn
    by_cases hi : k.state = .injecting
    · cases hd : k.disablePending <;> simp [hi, hd] at hst
    · simp [hi] at hst
  | disturbed => exact hk'
  | mirrored => exact hk'

theorem injectsFrom_of_reported {k k' : Tracker} {pc : Addr} {n : Nat}
    (h : ReflTransGen ActionHeard k k') (hk' : k'.InjectsFrom pc n) : k.InjectsFrom pc n := by
  induction h using ReflTransGen.head_induction_on with
  | refl => exact hk'
  | head hfirst _ ih => exact hfirst.injectsFrom ih

/-- No command of the host begins an injection. -/
theorem Commanded.injecting {k k' : Tracker} {i : Instr} (h : Commanded k i k')
    (hk' : k'.state = .injecting) : k.state = .injecting := by
  cases h with
  | switchedOn => cases hk'
  | switchedOff => cases hk'
  | _ => exact hk'

/-- An injection begins at a boundary fetch that an enabled tracker detects (45_tracker.md R321). -/
theorem CycleHeard.begins {addr : Addr} {f : CtrlFlags} {k k' : Tracker} (h : CycleHeard addr f k k')
    (hk : k.state ≠ .injecting) (hk' : k'.state = .injecting) :
    k.enabled = true ∧ k.hist0 = false ∧ k.holdArmed = false ∧ isFetch f = true ∧
      k'.InjectsFrom addr 1 := by
  cases h with
  | ignored => exact absurd hk' hk
  | supplied _ _ hi => exact absurd hi hk
  | finished _ _ hi => exact absurd hi hk
  | captured _ hi => exact absurd hi hk
  | recorded => exact absurd hk' hk
  | held => cases hk'
  | setBegun brk msg halt r he h0 ha hf => exact ⟨he, h0, ha, hf, rfl, rfl, rfl⟩
  | getBegun brk msg halt he h0 ha hf => exact ⟨he, h0, ha, hf, rfl, rfl, rfl⟩
  | awaited => cases hk'

/-! ### Entering Idle -/

/-- The tracker is on and in its cycle of states, with no disable pending. -/
def Tracker.Staying (k : Tracker) : Prop :=
  k.state ≠ .idle ∧ k.enabled = true ∧ k.disablePending = false

theorem Tracker.Staying.of_cycleHeard {addr : Addr} {f : CtrlFlags} {k k' : Tracker}
    (hk : k.Staying) (h : CycleHeard addr f k k') : k'.Staying := by
  obtain ⟨hst, he, hd⟩ := hk
  cases h with
  | ignored => exact ⟨hst, he, hd⟩
  | supplied => exact ⟨hst, he, hd⟩
  | finished h0 h1 =>
    have hon : (k.supply h0 h1).disablePending = false := hd
    rw [Tracker.finished, hon, Tracker.ended_frame]
    exact ⟨nofun, he, hd⟩
  | captured => exact ⟨hst, he, hd⟩
  | recorded => exact ⟨hst, he, hd⟩
  | held => exact ⟨nofun, he, hd⟩
  | setBegun => exact ⟨nofun, he, hd⟩
  | getBegun => exact ⟨nofun, he, hd⟩
  | awaited => exact ⟨nofun, he, hd⟩

theorem Tracker.Staying.of_actionHeard {k k' : Tracker} (hk : k.Staying) (h : ActionHeard k k') :
    k'.Staying := by
  obtain ⟨hst, he, hd⟩ := hk
  cases h with
  | ignored => exact ⟨hst, he, hd⟩
  | reset =>
    unfold trackerAfterReset
    by_cases hi : k.state = .injecting
    · simp [Staying, hi, hd, he]
    · simp [Staying, hi, hst, he, hd]
  | disturbed => exact ⟨hst, he, hd⟩
  | mirrored => exact ⟨hst, he, hd⟩

/-- Of the host's commands only TRK_ENABLE 0 makes a tracker Idle that is on. -/
theorem Tracker.Staying.of_commanded {k k' : Tracker} {i : Instr} (hk : k.Staying)
    (h : Commanded k i k') (hk' : k'.state = .idle) : i = .trkEnable false := by
  obtain ⟨hst, he, -⟩ := hk
  cases h with
  | switchedOff => rfl
  | switchedOn _ _ hoff => simp [he] at hoff
  | _ => exact absurd hk' hst

/-- TRK_ENABLE 0 has one word (30_encoding.md R105). -/
theorem word_of_trkDisable {w : Word32} (h : decodeCommand w = .ok (.trkEnable false)) :
    w = 0x10000000 := by
  obtain ⟨-, hw⟩ := encode_of_decodeCommand h
  exact (Encoded.word.inj hw).symm

/-- A tick that enters Injecting has detected a boundary fetch and recorded it. -/
theorem injection_begins {s t : State} (htable : TableOk s) (htick : Reported (afterWait s) t)
    (hs : s.trk.state ≠ .injecting) (ht : t.trk.state = .injecting) :
    s.trk.enabled = true ∧ s.trk.hist0 = false ∧ s.trk.holdArmed = false ∧
      s.eng.wait.asserted = false ∧ t.trk.cursor = 1 ∧ isFetch t.eng.wait.cur.flags = true ∧
      t.eng.wait.cur.addr = t.trk.boundaryPc ∧
      ∃ c, s.world.present = some c ∧ t.trk.boundaryPc = c.addr := by
  have hend : t.trk.InjectsFrom t.trk.boundaryPc t.trk.cursor := ⟨ht, rfl, rfl⟩
  have hmid := injectsFrom_of_reported htick.trk hend
  obtain h | ⟨ha, c, hc, hshown⟩ := afterWait_shown s
  · exact absurd (h ▸ hmid.1) hs
  · obtain ⟨⟨y, data, hy, hyt, hfan⟩, haddr⟩ := hshown
    have hheard := fanOut_heard_once c.addr data (afterWait s).eng.wait.cur.flags (hy.tableOk htable)
    rw [← hfan, hyt] at hheard
    obtain ⟨he, h0, harm, hf, -, hpc, hn⟩ := hheard.begins hs hmid.1
    obtain ⟨-, hpc', hn'⟩ := hmid
    rw [htick.cur, haddr]
    exact ⟨he, h0, harm, ha, hn'.symm.trans hn, hf, hpc.symm.trans hpc', c, hc, hpc'.symm.trans hpc⟩

/-- Settles O59: only a wait cycle begins an injection, and only a disable makes the tracker Idle. -/
theorem injectingOnlyAtBoundaryIdleOnlyByDisable :
    Obligations.InjectingOnlyAtBoundaryIdleOnlyByDisable := by
  intro s t hok htable h
  have hcoh := trackerOk_iff.mp hok
  have hcoh' := trackerOk_iff.mp (stepKeepsTrackerCoherent s t hok h)
  refine ⟨fun hs ht => ?_, fun hs ht => ?_, fun ht => ⟨hcoh'.pageOut.mp ht, hcoh'.seqKind.mp ht⟩⟩
  · obtain htrk | ⟨w, p, i, u, -, -, hturn, hexec⟩ := step_tracker h
    · exact absurd (htrk ▸ ht) hs
    · obtain hcmd | hdone | htick := exec_tracker hturn.issuer hexec
      · exact absurd (hturn.trk ▸ hcmd.injecting ht) hs
      · have hend : t.trk.InjectsFrom t.trk.boundaryPc t.trk.cursor := ⟨ht, rfl, rfl⟩
        exact absurd (hturn.trk ▸ (injectsFrom_of_reported hdone hend).1) hs
      · have hbegin := injection_begins (hturn.table.tableOk htable) htick (hturn.trk ▸ hs) ht
        rwa [hturn.trk, hturn.eng, hturn.present] at hbegin
  · by_cases hd : s.trk.disablePending = true
    · exact .inl hd
    · have hstay : s.trk.Staying := ⟨hs, hcoh.enabled hs, by simpa using hd⟩
      refine .inr ?_
      obtain htrk | ⟨w, p, i, u, hhost, hdec, hturn, hexec⟩ := step_tracker h
      · exact absurd (htrk ▸ ht) hs
      · have hstart : u.trk.Staying := hturn.trk ▸ hstay
        obtain hcmd | hstays := exec_keeps (fun _ _ _ _ hk => hk.of_cycleHeard)
          (fun _ _ hk => hk.of_actionHeard) hturn.issuer hexec hstart
        · obtain rfl := hstart.of_commanded hcmd ht
          exact ⟨p, word_of_trkDisable hdec ▸ hhost⟩
        · exact absurd ht hstays.1

end Sys2Proof.Machine
end

section
/-! SUPPORT. The tracker's own socket (45_tracker.md R310, R313, R317): the tracker's operations as one write of
its slot and one of the tracker. -/

namespace Sys2Proof.Machine

section
variable {s : State} {h : Nat}

/-- Aggregates that are as computed are left by computing them again (40_socket_table.md R146). -/
theorem recompute_of_aggregatesOk (ha : AggregatesOk s) : recompute s = s := by
  obtain ⟨hhold, hmem, hio⟩ := ha
  have h1 : s.eng.holdWanted = s.eng.wait.hold := Bool.eq_iff_iff.mpr ((holdWanted_iff s).trans hhold.symm)
  have h2 : s.eng.memWanted = s.eng.waitGenMem := Bool.eq_iff_iff.mpr ((memWanted_iff s).trans hmem.symm)
  have h3 : s.eng.ioWanted = s.eng.waitGenIo := Bool.eq_iff_iff.mpr ((ioWanted_iff s).trans hio.symm)
  rw [recompute, h1, h2, h3]
  rfl

/-- A write of a slot with what it holds changes nothing. -/
theorem setSock_sockAt (hl : h < s.eng.sock.length) : setSock h (sockAt s h) s = s := by
  have hset : s.eng.sock.set h (sockAt s h) = s.eng.sock := by
    simp [sockAt, hl]
  rw [setSock, hset]
  rfl

/-- A write of the flags that a slot has changes nothing. -/
theorem changeSocket_same (hh : h < s.eng.numSockets) (hl : h < s.eng.sock.length) (ha : AggregatesOk s)
    {f : Socket → Socket} (hf : f (sockAt s h) = sockAt s h) : (changeSocket h f s).2 = s := by
  rw [changeSocket_ok hh, hf, setSock_sockAt hl, recompute_of_aggregatesOk ha]

/-- Two writes of a slot's flags are one write. -/
theorem changeSocket_changeSocket (hh : h < s.eng.numSockets) (hl : h < s.eng.sock.length)
    (f g : Socket → Socket) :
    (changeSocket h g (changeSocket h f s).2).2 = (changeSocket h (fun k => g (f k)) s).2 := by
  rw [changeSocket_ok hh, changeSocket_ok hh, changeSocket_ok (by exact hh), sockAt_recompute,
    sockAt_setSock_self hl]
  have hset : ∀ k k' : Socket, recompute (setSock h k' (recompute (setSock h k s))) =
      recompute (setSock h k' s) := by
    intro k k'
    simp [recompute, setSock, State.withEng, Engine.holdWanted, Engine.memWanted, Engine.ioWanted,
      Engine.registered, List.set_set]
  exact hset _ _

/-- The tracker's handle is 0, which is registered. -/
theorem TableOk.tracker_slot (hs : TableOk s) :
    s.trk.socket = 0 ∧ 0 < s.eng.numSockets ∧ 0 < s.eng.sock.length := by
  have ⟨_, hone, _, _, _, hsocket, _⟩ := hs
  exact ⟨hsocket, hone, hs.lt_length hone⟩

end

/-- A command of the tracker that writes its slot and the tracker. -/
theorem finish_trackerSlot {s : State} (hs : TableOk s) (f : Socket → Socket) (k : Tracker) (r : Ret) :
    ∃ t, finish (r, (changeSocket 0 f s).2.withTrk k) = .next t ∧
      t = ((s.withTrk k).withEng t.eng).answer r ∧ t.eng.numSockets = s.eng.numSockets ∧
      SocketBecomes 0 (f (sockAt s 0)) s t := by
  obtain ⟨-, hh, hl⟩ := hs.tracker_slot
  have hbecomes := changeSocket_becomes hh hl f
  rw [changeSocket_ok hh] at hbecomes ⊢
  exact ⟨_, rfl, rfl, rfl, hbecomes⟩

/-- The slot of a tracker that has given up a hold, where it had one. -/
def dropHold (held : Bool) (k : Socket) : Socket := { k with hold := k.hold && !held }

/-- The slot of a tracker that is off. -/
def switchOff (held : Bool) (k : Socket) : Socket :=
  { k with enabled := false, waitOnMemory := false, waitOnIo := false, hold := k.hold && !held }

theorem releaseHold_free {s : State} (hd : s.trk.held = false) : releaseHold s = s := by
  simp [releaseHold, hd]

section
variable {s : State} (hs : SocketsOk s)
include hs

theorem releaseHold_eq :
    releaseHold s = (changeSocket 0 (dropHold s.trk.held) s).2.withTrk { s.trk with held := false } := by
  obtain ⟨htable, hagg⟩ := hs
  obtain ⟨hsocket, hh, hl⟩ := htable.tracker_slot
  cases hd : s.trk.held with
  | true =>
    have hdrop : dropHold true = fun k => { k with hold := false } := by
      funext k
      simp [dropHold]
    simp [releaseHold, hd, setHold, hsocket, hdrop]
  | false =>
    rw [changeSocket_same hh hl hagg (by simp [dropHold])]
    rw [releaseHold_free hd, ← hd]
    rfl

theorem doDisable_eq :
    doDisable s = (changeSocket 0 (switchOff s.trk.held) s).2.withTrk (trackerOff s.trk) := by
  obtain ⟨hsocket, hh, hl⟩ := hs.1.tracker_slot
  unfold doDisable
  simp only [releaseHold_eq hs, setWaitOn, enableSocket, changeSocket_withTrk, State.withTrk_trk,
    State.withTrk_withTrk, hsocket, changeSocket_changeSocket hh hl]
  rw [trackerOff, hsocket]
  rfl

end

/-! ### TRK_ENABLE -/

section
variable {s : State}

theorem exec_trkEnable (e : Bool) (s : State) : exec (.trkEnable e) s = finish (trkEnable e s) := rfl

theorem trkEnable_pending (hd : s.trk.disablePending = true) : trkEnable true s =
    (okNone, s.withTrk { s.trk with disablePending := false, hist0 := true, hist1 := true }) := by
  simp [trkEnable, hd, resetHistory]

theorem trkEnable_on (hd : s.trk.disablePending = false) (he : s.trk.enabled = true) :
    trkEnable true s = (okNone, s.withTrk { s.trk with hist0 := true, hist1 := true }) := by
  simp [trkEnable, hd, he, resetHistory]

/-- A tracker that is switched on waits on memory cycles. -/
theorem trkEnable_off (hs : TableOk s) (hd : s.trk.disablePending = false) (he : s.trk.enabled = false) :
    trkEnable true s = (okNone, (changeSocket 0
      (fun k => { k with enabled := true, waitOnMemory := true, waitOnIo := false }) s).2.withTrk
        { s.trk with
          enabled := true, state := .idle, hist0 := true, hist1 := true, getRequested := true }) := by
  obtain ⟨hsocket, hh, hl⟩ := hs.tracker_slot
  simp [trkEnable, hd, he, resetHistory, setWaitOn, enableSocket, changeSocket_withTrk, hsocket,
    changeSocket_changeSocket hh hl]

theorem trkDisable_off (he : s.trk.enabled = false) : trkEnable false s = (okNone, s) := by
  simp [trkEnable, he]

theorem trkDisable_injecting (he : s.trk.enabled = true) (hi : s.trk.state = .injecting) :
    trkEnable false s = (okNone, s.withTrk { s.trk with disablePending := true }) := by
  simp [trkEnable, he, hi]

theorem trkDisable_on (he : s.trk.enabled = true) (hi : s.trk.state ≠ .injecting) :
    trkEnable false s = (okNone, doDisable s) := by
  simp [trkEnable, he, hi]

end

/-- Settles O39: the history is set in each case, and a tracker that is off is switched on with its slot. -/
theorem trkEnableEffect : Obligations.TrkEnableEffect := by
  intro s hs
  simp only [exec_trkEnable]
  refine ⟨fun hd => ?_, fun hd he => ?_, fun hd he => ?_⟩
  · rw [trkEnable_pending hd, finish_eq]
  · rw [trkEnable_on hd he, finish_eq]
  · rw [trkEnable_off hs hd he]
    exact finish_trackerSlot hs _ _ _

/-- Settles O40: off nothing happens, in an injection the disable is noted, and else it is carried out. -/
theorem trkDisableEffect : Obligations.TrkDisableEffect := by
  intro s hs
  simp only [exec_trkEnable]
  refine ⟨fun he => ?_, fun he hi => ?_, fun he hi => ?_⟩
  · rw [trkDisable_off he, finish_eq]
  · rw [trkDisable_injecting he hi, finish_eq]
  · rw [trkDisable_on he hi, doDisable_eq hs]
    exact finish_trackerSlot hs.1 _ _ _

/-! ### The other commands -/

theorem exec_trkRequestGet (s : State) : exec .trkRequestGet s = finish (trkRequestGet s) := rfl

theorem exec_trkStartSet (s : State) :
    exec .trkStartSet s = finish (trkStartSet s.port.payload.regs s) := rfl

theorem exec_trkStep (s : State) : exec .trkStep s = finish (trkStep s) := rfl

theorem exec_trkRun (s : State) : exec .trkRun s = finish (trkRun s) := rfl

theorem exec_trkHalt (s : State) : exec .trkHalt s = finish (trkHalt s) := rfl

section
variable {s : State}

theorem trkRequestGet_on (he : s.trk.enabled = true) :
    trkRequestGet s = (okNone, s.withTrk { s.trk with getRequested := true }) := if_pos he

theorem trkStartSet_on (he : s.trk.enabled = true) {r : Z80Registers} (hr : imSettable r.im) :
    trkStartSet r s = (okNone, s.withTrk { s.trk with setRequest := some r }) := by
  rw [trkStartSet, if_neg (by simp [he]), if_pos hr]

/-- A SET of another interrupt mode is refused, whether the tracker is on or off. -/
theorem trkStartSet_illegal {r : Z80Registers} (hr : ¬ imSettable r.im) :
    trkStartSet r s = (invalid, s) := by
  rw [trkStartSet, if_neg hr, ite_self]

theorem trkHalt_on (he : s.trk.enabled = true) :
    trkHalt s = (okNone, s.withTrk { s.trk with stepInto := true }) := if_pos he

theorem trkStep_on (hs : SocketsOk s) (he : s.trk.enabled = true) :
    trkStep s = (okNone, (changeSocket 0 (dropHold s.trk.held) s).2.withTrk
      { s.trk with stepInto := true, held := false }) := by
  have hs' : SocketsOk (s.withTrk { s.trk with stepInto := true }) := hs
  rw [trkStep, if_pos he, releaseHold_eq hs', changeSocket_withTrk]
  rfl

theorem trkRun_on (hs : SocketsOk s) (he : s.trk.enabled = true) :
    trkRun s = (okNone, (changeSocket 0 (dropHold s.trk.held) s).2.withTrk
      { s.trk with stepInto := false, holdArmed := false, held := false }) := by
  have hs' : SocketsOk (s.withTrk { s.trk with stepInto := false, holdArmed := false }) := hs
  rw [trkRun, if_pos he, releaseHold_eq hs', changeSocket_withTrk]
  rfl

/-- A tracker that is off refuses all of them. -/
theorem tracker_off_refuses (he : s.trk.enabled = false) (r : Z80Registers) :
    trkRequestGet s = (invalid, s) ∧ trkStartSet r s = (invalid, s) ∧ trkStep s = (invalid, s) ∧
      trkRun s = (invalid, s) ∧ trkHalt s = (invalid, s) := by
  simp [trkRequestGet, trkStartSet, trkStep, trkRun, trkHalt, he]

end

/-- Settles O41: each command writes its request, or step mode and the tracker's slot, or is refused. -/
theorem trkControlCommandsEffect : Obligations.TrkControlCommandsEffect := by
  intro s hs
  simp only [exec_trkRequestGet, exec_trkStartSet, exec_trkStep, exec_trkRun, exec_trkHalt]
  refine ⟨fun he => ⟨?_, fun hr => ?_, ?_, ?_, ?_⟩, fun he => ?_, fun hr => ?_⟩
  · rw [trkRequestGet_on he, finish_eq]
  · rw [trkStartSet_on he hr, finish_eq]
  · rw [trkHalt_on he, finish_eq]
  · rw [trkStep_on hs he]
    exact finish_trackerSlot hs.1 _ _ _
  · rw [trkRun_on hs he]
    exact finish_trackerSlot hs.1 _ _ _
  · obtain ⟨hget, hset, hstep, hrun, hhalt⟩ := tracker_off_refuses he s.port.payload.regs
    simp only [hget, hset, hstep, hrun, hhalt, finish_eq, and_self]
  · rw [trkStartSet_illegal hr, finish_eq]

end Sys2Proof.Machine
end

section
/-! SUPPORT. The tracker's callbacks as the engine's words run them: a fetch outside an injection (45_tracker.md
R320, R321), and each kind of completed action (R317, R328, R330). -/

namespace Sys2Proof.Machine

/-! ### ON_WAIT_CYCLE -/

section
variable {s : State} {addr : Addr} {data : Byte} {f : CtrlFlags}

theorem exec_onWaitCycle (h : s.port.issuer = .engine) (ha : s.port.payload.addr = addr)
    (hd : s.port.payload.data = data) (hf : s.port.payload.flags = f) :
    exec .onWaitCycle s =
      finish (.ok (.decision (trackerOnWaitCycle addr data f s).1), (trackerOnWaitCycle addr data f s).2) := by
  subst ha hd hf
  simp [exec, execOnWaitCycle, h]

/-- Outside an injection a tracker that is off ignores every cycle, and one that is on every cycle but a
fetch. -/
theorem trackerOnWaitCycle_ignores (hi : s.trk.state ≠ .injecting)
    (h : s.trk.enabled = false ∨ isFetch f = false) :
    trackerOnWaitCycle addr data f s = (.notDecoded, s) := by
  obtain he | hf := h
  · simp [trackerOnWaitCycle, he]
  · simp [trackerOnWaitCycle, hi, hf]

theorem trackerOnWaitCycle_fetch (he : s.trk.enabled = true) (hf : isFetch f = true)
    (hi : s.trk.state ≠ .injecting) :
    trackerOnWaitCycle addr data f s = boundaryStep addr data f s := by
  simp [trackerOnWaitCycle, he, isMem_of_isFetch hf, hi, hf]

/-- An armed hold is taken with the tracker's slot, and the wait is held from then on. -/
theorem finish_takesHold (hs : TableOk s) (k : Tracker) (r : Ret) :
    ∃ t, finish (r, (setHold s.trk.socket true s).2.withTrk k) = .next t ∧
      t = ((s.withTrk k).withEng t.eng).answer r ∧ t.eng.wait.hold = true ∧
      t.eng.numSockets = s.eng.numSockets ∧ SocketBecomes 0 { sockAt s 0 with hold := true } s t := by
  obtain ⟨hsocket, hh, -⟩ := hs.tracker_slot
  rw [hsocket]
  obtain ⟨t, hexec, hframe, hnum, hbecomes⟩ := finish_trackerSlot hs (fun k => { k with hold := true }) k r
  have ⟨_, _, hself, _, hhold, _⟩ := hbecomes
  exact ⟨t, hexec, hframe, hhold.mpr ⟨0, hnum ▸ hh, by rw [hself]⟩, hnum, hbecomes⟩

end

/-- Settles O42: one case for each way a fetch finds the tracker, by the lemmas on `boundaryStep`. -/
theorem onWaitCycleAtFetch : Obligations.OnWaitCycleAtFetch := by
  intro s addr data f hissuer haddr hdata hflags hi hs
  rw [exec_onWaitCycle hissuer haddr hdata hflags]
  refine ⟨finish_eq _ _, fun h => ?_, fun he hf brk msg hbrk => ?_⟩
  · rw [trackerOnWaitCycle_ignores hi h, finish_eq]
  have hn : NotesBreak addr f s brk msg := by
    unfold NotesBreak noteBreak
    split <;> (rename_i heq; rw [heq] at hbrk; obtain ⟨rfl, rfl⟩ := hbrk; rfl)
  rw [trackerOnWaitCycle_fetch he hf hi]
  refine ⟨fun h0 => ?_, fun h0 ha => ?_, fun r h0 ha hr => ?_, fun h0 ha hr hwant => ?_,
    fun h0 ha hr hg hst hb => ?_⟩
  · rw [boundaryStep_inside hn h0, finish_eq]
  · rw [boundaryStep_hold hn h0 ha]
    exact finish_takesHold hs _ _
  · rw [boundaryStep_set hn h0 ha hf hr, finish_eq]
    rfl
  · rw [boundaryStep_get hn h0 ha hf hr hwant, finish_eq]
    rfl
  · rw [hb] at hbrk
    obtain ⟨rfl, rfl⟩ := hbrk
    rw [boundaryStep_plain hn h0 ha hr hg hst hb, finish_eq]

/-! ### ON_BUS_ACTION_COMPLETE -/

section
variable {s : State} (reason : Byte) (o : ActOutcome)

theorem exec_onBusActionComplete {a : BusAction} {reason : Byte} {o : ActOutcome}
    (h : s.port.issuer = .engine) (ha : s.port.payload.action = a) (hr : s.port.payload.reason = reason)
    (ho : s.port.payload.outcome = o) :
    exec .onBusActionComplete s = .next ((trackerOnComplete a reason o s).answer okNone) := by
  subst ha hr ho
  simp [exec, execOnBusActionComplete, h]

/-- The tracker's slot after a Reset, which may switch the tracker off, and drops its hold if it has one. -/
def resetSlot (off held : Bool) (k : Socket) : Socket :=
  { k with
    enabled := k.enabled && !off, waitOnMemory := k.waitOnMemory && !off
    waitOnIo := k.waitOnIo && !off, hold := k.hold && !held }

theorem resetSlot_off (held : Bool) : resetSlot true held = switchOff held := by
  funext k
  simp [resetSlot, switchOff]

theorem resetSlot_on (held : Bool) : resetSlot false held = dropHold held := by
  funext k
  simp [resetSlot, dropHold]

/-- The socket table does not depend on the tracker but for its handle. -/
theorem SocketsOk.withTrk (hs : SocketsOk s) {k : Tracker} (hk : k.socket = s.trk.socket) :
    SocketsOk (s.withTrk k) := by
  simpa [SocketsOk, TableOk, AggregatesOk, hk] using hs

theorem releaseHold_withTrk (hs : SocketsOk s) {k : Tracker} (hk : k.socket = s.trk.socket) :
    releaseHold (s.withTrk k) =
      (changeSocket 0 (dropHold k.held) s).2.withTrk { k with held := false } := by
  rw [releaseHold_eq (hs.withTrk hk), changeSocket_withTrk, State.withTrk_withTrk]
  rfl

theorem doDisable_withTrk (hs : SocketsOk s) {k : Tracker} (hk : k.socket = s.trk.socket) :
    doDisable (s.withTrk k) = (changeSocket 0 (switchOff k.held) s).2.withTrk (trackerOff k) := by
  rw [doDisable_eq (hs.withTrk hk), changeSocket_withTrk, State.withTrk_withTrk]
  rfl

/-- A Reset switches the tracker off if it ends an injection with a disable pending. -/
def resetSwitchesOff (k : Tracker) : Bool := decide (k.state = .injecting) && k.disablePending

/-- A Reset that ends the injection of a tracker with a disable pending switches it off; any other drops the
hold, where there is one. -/
theorem trackerOnComplete_reset (hs : SocketsOk s) :
    trackerOnComplete .reset reason o s =
      (changeSocket 0 (resetSlot (resetSwitchesOff s.trk) s.trk.held) s).2.withTrk
        (trackerAfterReset s.trk) := by
  have hframe : ∃ k, trackerOnComplete .reset reason o s =
      (changeSocket 0 (resetSlot (resetSwitchesOff s.trk) s.trk.held) s).2.withTrk k := by
    simp only [trackerOnComplete, resetHistory, abortInjection, resetSwitchesOff]
    by_cases hi : s.trk.state = .injecting
    · cases s.trk.disablePending with
      | true =>
        simp only [hi, if_true, decide_true, Bool.and_self, State.withTrk_trk, resetSlot_off,
          doDisable_withTrk hs, State.withTrk_withTrk]
        rw [releaseHold_free (by rfl)]
        exact ⟨_, rfl⟩
      | false =>
        simp only [hi, if_true, Bool.false_eq_true, if_false, Bool.and_false, State.withTrk_trk,
          resetSlot_on, releaseHold_withTrk hs, State.withTrk_withTrk]
        exact ⟨_, rfl⟩
    · simp only [hi, if_false, decide_false, Bool.false_and, State.withTrk_trk, resetSlot_on,
        releaseHold_withTrk hs, State.withTrk_withTrk]
      exact ⟨_, rfl⟩
  obtain ⟨k, hk⟩ := hframe
  have htrk := trackerOnComplete_reset_trk reason o s
  rw [hk, State.withTrk_trk] at htrk
  rw [hk, htrk]

/-- The callback leaves a table that is well formed, with aggregates as computed. -/
theorem trackerOnComplete_socketsOk (hs : SocketsOk s) (a : BusAction) :
    SocketsOk (trackerOnComplete a reason o s) :=
  ((TableKept.callbackStable s.cfg s.eng.numSockets).trackerOnComplete ⟨hs, rfl, le_refl _⟩ a reason o).1

/-- An NMI or IRQ disturbs an injection. -/
theorem trackerOnComplete_disturbs {a : BusAction} (ha : a = .nmi ∨ a = .irq) :
    trackerOnComplete a reason o s = s.withTrk { s.trk with
      disturbed := s.trk.disturbed || decide (s.trk.state = .injecting) } := by
  have hpulse : (if s.trk.state = .injecting then s.withTrk { s.trk with disturbed := true } else s) =
      s.withTrk { s.trk with disturbed := s.trk.disturbed || decide (s.trk.state = .injecting) } := by
    by_cases hi : s.trk.state = .injecting
    · simp [hi]
    · simp only [hi, if_false, decide_false, Bool.or_false]
      rfl
  obtain rfl | rfl := ha <;> exact hpulse

/-- The tracker's own BusRequest copies memory under the bus that it was granted (45_tracker.md R330). -/
theorem trackerOnComplete_mirrors (hm : s.eng.mastered = true) :
    trackerOnComplete .busRequest mirrorReason .ok s =
      s.withTrk { s.trk with mirror := s.world.mem, mirrorValid := true } := by
  simp [trackerOnComplete, mirrorMemory, hm]

theorem trackerOnComplete_noMirror (h : o ≠ .ok ∨ s.eng.mastered = false) :
    trackerOnComplete .busRequest mirrorReason o s = s.withTrk { s.trk with mirrorValid := false } := by
  by_cases ho : o = .ok
  · simp [trackerOnComplete, mirrorMemory, ho, h.resolve_left (not_not.mpr ho)]
  · simp [trackerOnComplete, ho]

theorem trackerOnComplete_otherRequest {reason : Byte} (hr : reason ≠ mirrorReason) :
    trackerOnComplete .busRequest reason o s = s := by
  simp [trackerOnComplete, hr]

end

/-- The tracker after a Reset: its history, its snapshot and its hold are dropped, and no injection runs. -/
theorem Tracker.Coherent.afterReset_fields {k : Tracker} (hk : k.Coherent) :
    (trackerAfterReset k).pageOut = false ∧ (trackerAfterReset k).seqKind = .none ∧
    (trackerAfterReset k).seq = [] ∧ (trackerAfterReset k).cursor = 0 ∧
    (trackerAfterReset k).state =
      if k.state = .injecting then (if k.disablePending then .idle else .awaiting) else k.state := by
  by_cases hi : k.state = .injecting
  · cases hd : k.disablePending <;> simp [trackerAfterReset, hi, hd]
  · obtain ⟨hkind, hpage, hseq, hcur⟩ := hk.no_sequence hi
    simp [trackerAfterReset, hi, hkind, hpage, hseq, hcur]

theorem trackerAfterReset_drops (k : Tracker) :
    (trackerAfterReset k).hist0 = true ∧ (trackerAfterReset k).hist1 = true ∧
    (trackerAfterReset k).regsValid = false ∧ (trackerAfterReset k).holdArmed = false ∧
    (trackerAfterReset k).held = false ∧ (trackerAfterReset k).regs = k.regs ∧
    (trackerAfterReset k).mirror = k.mirror := by
  by_cases hi : k.state = .injecting
  · cases hd : k.disablePending <;> simp [trackerAfterReset, hi, hd]
  · simp [trackerAfterReset, hi]

/-- Settles O44: one case for each kind of action. -/
theorem onBusActionCompleteEffect : Obligations.OnBusActionCompleteEffect := by
  intro s action reason outcome hissuer haction hreason houtcome hs hok
  rw [exec_onBusActionComplete hissuer haction hreason houtcome]
  refine ⟨?_, fun ha => ?_, ?_, ?_, ?_⟩
  · rintro rfl
    have hkept := trackerOnComplete_socketsOk reason outcome hs .reset
    rw [trackerOnComplete_reset reason outcome hs] at hkept ⊢
    obtain ⟨t, hexec, hframe, hnum, hslot⟩ :=
      finish_trackerSlot hs.1 (resetSlot (resetSwitchesOff s.trk) s.trk.held) (trackerAfterReset s.trk) okNone
    have ht := (finish_eq _ _).symm.trans hexec
    have htrk : t.trk = trackerAfterReset s.trk := by rw [hframe]; rfl
    have hsockets : SocketsOk t := Host.Outcome.next.inj ht ▸ hkept
    obtain ⟨hhist0, hhist1, hvalid, harmed, hheld, hregs, hmirror⟩ := trackerAfterReset_drops s.trk
    obtain ⟨hpage, hkind, hseq, hcur, hstate⟩ := (trackerOk_iff.mp hok).afterReset_fields
    refine ⟨t, resetSwitchesOff s.trk, ht, rfl, hframe, ?_⟩
    rw [htrk]
    exact ⟨hhist0, hhist1, hvalid, harmed, hheld, hpage, hkind, hseq, hcur, hstate, hnum, hsockets, hslot,
      hregs, hmirror⟩
  · rw [trackerOnComplete_disturbs reason outcome ha]
  · rintro rfl rfl rfl hm
    rw [← trackerOnComplete_mirrors hm]
    rfl
  · rintro rfl rfl h
    rw [← trackerOnComplete_noMirror outcome h]
    rfl
  · rintro (rfl | ⟨rfl, hr⟩)
    · rfl
    · rw [trackerOnComplete_otherRequest outcome hr]

end Sys2Proof.Machine
end

section
/-! SUPPORT. The bytes that decode are the bytes of the row they decode to (46_injection.md R361). -/

namespace Sys2Proof

section
variable {bs rest : List Byte} {i : Instr}

theorem operand8_eq_ok_iff {mk : Byte → Instr} :
    operand8 mk bs = .ok (i, rest) ↔ ∃ n, i = mk n ∧ bs = n :: rest := by
  cases bs with
  | nil => simp [operand8]
  | cons n bs => simp [operand8, eq_comm]

theorem operand16_eq_ok_iff {mk : BitVec 16 → Instr} :
    operand16 mk bs = .ok (i, rest) ↔ ∃ nn, i = mk nn ∧ bs = lo nn :: hi nn :: rest := by
  refine ⟨fun h => ?_, ?_⟩
  · unfold operand16 at h
    split at h
    · rename_i l h' tail
      cases h
      exact ⟨pair h' l, rfl, by simp⟩
    · cases h
  · rintro ⟨nn, rfl, rfl⟩
    exact operand16_lo_hi mk nn rest

/-- A byte is the one that a row of the decoder names by its number. -/
theorem cons_of_toNat {b c : Byte} (hb : b.toNat = c.toNat) {tail tail' : List Byte} (h : tail = tail') :
    b :: tail = c :: tail' := by
  rw [BitVec.eq_of_toNat_eq hb, h]

/-- The bytes after ED. -/
theorem bytes_of_decodeEd (h : decodeEd bs = .ok (i, rest)) : 0xED :: bs = z80Bytes i ++ rest := by
  unfold decodeEd at h
  split at h
  · cases h
  · split at h
    case h_1 hb | h_5 hb => -- a store of BC or DE
      obtain ⟨nn, rfl, rfl⟩ := operand16_eq_ok_iff.mp h
      exact congrArg _ (cons_of_toNat hb rfl)
    case h_10 => cases h
    all_goals cases h; exact congrArg _ (cons_of_toNat ‹_› rfl)

/-- The bytes after DD. -/
theorem bytes_of_decodeDd (h : decodeDd bs = .ok (i, rest)) : 0xDD :: bs = z80Bytes i ++ rest := by
  unfold decodeDd at h
  split at h
  · cases h
  · split at h
    case h_1 hb =>
      obtain ⟨nn, rfl, rfl⟩ := operand16_eq_ok_iff.mp h
      exact congrArg _ (cons_of_toNat hb rfl)
    case h_2 hb => cases h; exact congrArg _ (cons_of_toNat hb rfl)
    case h_3 => cases h

/-- The bytes after FD. -/
theorem bytes_of_decodeFd (h : decodeFd bs = .ok (i, rest)) : 0xFD :: bs = z80Bytes i ++ rest := by
  unfold decodeFd at h
  split at h
  · cases h
  · split at h
    case h_1 hb =>
      obtain ⟨nn, rfl, rfl⟩ := operand16_eq_ok_iff.mp h
      exact congrArg _ (cons_of_toNat hb rfl)
    case h_2 hb => cases h; exact congrArg _ (cons_of_toNat hb rfl)
    case h_3 => cases h

/-- Bytes that decode begin with the bytes of the row. Case `h_k` is the `k`-th row of `decodeZ80`. -/
theorem bytes_of_decodeZ80 (h : decodeZ80 bs = .ok (i, rest)) : bs = z80Bytes i ++ rest := by
  unfold decodeZ80 at h
  split at h
  · cases h
  · split at h
    case h_4 hb | h_9 hb => -- a byte operand
      obtain ⟨n, rfl, rfl⟩ := operand8_eq_ok_iff.mp h
      exact cons_of_toNat hb rfl
    case h_1 hb | h_3 hb | h_5 hb | h_6 hb | h_7 hb | h_8 hb | h_10 hb => -- a word operand
      obtain ⟨nn, rfl, rfl⟩ := operand16_eq_ok_iff.mp h
      exact cons_of_toNat hb rfl
    case h_12 hb => exact (cons_of_toNat hb rfl).trans (bytes_of_decodeDd h)
    case h_13 hb => exact (cons_of_toNat hb rfl).trans (bytes_of_decodeEd h)
    case h_18 hb => exact (cons_of_toNat hb rfl).trans (bytes_of_decodeFd h)
    case h_19 => cases h
    all_goals cases h; exact cons_of_toNat ‹_› rfl

end

theorem encode_of_isZ80 {i : Instr} (h : i.isZ80 = true) : encode i = .bytes (z80Bytes i) := by
  cases i <;> cases h <;> rfl

/-- Settles O3: the decoder reads the bytes of a row (`decodeZ80_of_encode`), and no others. -/
theorem zBytesDecode : Obligations.ZBytesDecode := by
  refine fun bs rest i => ⟨fun h => ⟨decodeZ80_isZ80 h, bytes_of_decodeZ80 h⟩, ?_⟩
  rintro ⟨hz, rfl⟩
  exact decodeZ80_of_encode (encode_of_isZ80 hz) rest

end Sys2Proof
end

section
/-! SUPPORT. A free Z80 runs the row of its instruction whole (46_injection.md R361): its registers from the
fetches and the row's effect, and memory from the row's writes (20_memory.md R82). -/

namespace Sys2Proof.Machine

/-- A whole instruction of a free Z80: the effect of its row past its fetches, and its row's writes. -/
theorem exec_of_z80Free {s : State} {i : Instr} {p : Plan} {z : Z80Regs} {m : Memory}
    (hf : z80Free s = true) (hp : planOf i = some p)
    (hz : retire p (Config.freeFlags s.world.draws)
      ((p.stackReads (pastFetch p s.world.z80.regs)).map (fun a => memRead a s))
      (pastFetch p s.world.z80.regs) = z)
    (hm : writeAll (p.writes (pastFetch p s.world.z80.regs)) s.world.mem = m) :
    exec i s = .next (afterZ80 s z m) := by
  rw [exec_of_planOf hp, z80Exec, if_pos hf, ← hz, ← hm]
  rfl

/-! ### The flags of `ld a,i` -/

/-- P/V is IFF2, and no other flag is stated. -/
theorem flagsAfterLdAI_pv (free : Byte) (iff2 : Bool) : (flagsAfterLdAI free iff2).getLsbD 2 = iff2 := by
  cases iff2 <;> simp [flagsAfterLdAI]

/-! ### Memory after the writes of a row -/

theorem read_writeAll_one {m : Memory} (hm : Memory.wf m = true) (a : Addr) (v : Byte) (x : Addr) :
    Memory.read (writeAll [(a, v)] m) x = if x = a then v else Memory.read m x := by
  split
  · rename_i h
    subst h
    exact Memory.read_write_self hm x v
  · exact Memory.read_write_other ‹_›

/-- Two writes at different addresses. -/
theorem read_writeAll_two {m : Memory} (hm : Memory.wf m = true) {a b : Addr} (hab : a ≠ b) (v w : Byte)
    (x : Addr) :
    Memory.read (writeAll [(a, v), (b, w)] m) x =
      if x = a then v else if x = b then w else Memory.read m x := by
  have hlast : Memory.read (writeAll [(a, v), (b, w)] m) x =
      if x = b then w else Memory.read (writeAll [(a, v)] m) x :=
    read_writeAll_one (Memory.write_wf hm a v) b w x
  rw [hlast, read_writeAll_one hm]
  split
  · rename_i h
    rw [if_neg (h ▸ hab.symm)]
  · rfl

theorem read_writeAll_store {m : Memory} (hm : Memory.wf m = true) (nn v : BitVec 16) (x : Addr) :
    Memory.read (writeAll (storeWrites nn v) m) x =
      if x = nn then lo v else if x = nn + 1 then hi v else Memory.read m x :=
  read_writeAll_two hm (by bv_omega) _ _ x

theorem read_writeAll_push {m : Memory} (hm : Memory.wf m = true) (sp v : BitVec 16) (x : Addr) :
    Memory.read (writeAll (pushWrites sp v) m) x =
      if x = sp - 1 then hi v else if x = sp - 2 then lo v else Memory.read m x :=
  read_writeAll_two hm (by bv_omega) _ _ x

/-- Settles O46: each store is its row's writes. -/
theorem zStores : Obligations.ZStores := by
  rintro s z hf rfl ⟨hm, -⟩ nn
  exact ⟨⟨_, exec_of_z80Free hf rfl rfl rfl, read_writeAll_one hm nn _⟩,
    ⟨_, exec_of_z80Free hf rfl rfl rfl, read_writeAll_store hm nn _⟩,
    ⟨_, exec_of_z80Free hf rfl rfl rfl, read_writeAll_store hm nn _⟩,
    ⟨_, exec_of_z80Free hf rfl rfl rfl, read_writeAll_store hm nn _⟩⟩

/-- Settles O47: each push is its row's writes, and `pop af` reads its two bytes and writes none. -/
theorem zStackInstructions : Obligations.ZStackInstructions := by
  rintro s z hf rfl ⟨hm, -⟩
  exact ⟨⟨_, exec_of_z80Free hf rfl rfl rfl, read_writeAll_push hm _ _⟩,
    ⟨_, exec_of_z80Free hf rfl rfl rfl, read_writeAll_push hm _ _⟩,
    ⟨_, exec_of_z80Free hf rfl rfl rfl, read_writeAll_push hm _ _⟩,
    exec_of_z80Free hf rfl rfl rfl⟩

/-- Settles O45: each row's effect past its own fetches, in the order of the statement. -/
theorem zRegisterInstructions : Obligations.ZRegisterInstructions := by
  rintro s z hf rfl
  refine ⟨fun _ => ?ldAN, fun _ => ?ldBc, fun _ => ?ldDe, fun _ => ?ldHl, fun _ => ?ldSp, fun _ => ?ldIx,
    fun _ => ?ldIy, ?exx, ?exAf, ?im0, ?im1, ?im2, ?ei, ?di, fun _ => ?jr, fun _ => ?jp,
    ⟨flagsAfterLdAR (Config.freeFlags s.world.draws), ?ldAR⟩,
    ⟨flagsAfterLdAI (Config.freeFlags s.world.draws) s.world.z80.regs.iff2, flagsAfterLdAI_pv _ _, ?ldAI⟩,
    ?ldRA, ?ldIA⟩
  all_goals exact exec_of_z80Free hf rfl rfl rfl

end Sys2Proof.Machine
end

section
/-! SUPPORT. The Z80 in the middle of an instruction of 46_injection.md R361: what it does next, and the
registers it then has. -/

namespace Sys2Proof.Machine

/-! ### The rows -/

/-- What every row of 46_injection.md R361 has: its bytes are its program bytes, the first `m1` of them fetched
with M1, and its stack reads and its writes, at most two, depend on neither PC nor R. -/
structure RowShape (i : Instr) (p : Plan) : Prop where
  decodes : ∀ rest, decodeZ80 (z80Bytes i ++ rest) = .ok (i, rest)
  plan : planOf i = some p
  length : ∀ z, (z80Bytes i).length = programLength p z
  m1_pos : 0 < p.m1
  m1_le : p.m1 ≤ (z80Bytes i).length
  reads : ∀ z, p.m1 + p.rd = (z80Bytes i).length + (p.stackReads z).length
  program : ∀ k < (z80Bytes i).length, ∀ z w,
    z80Next ⟨z, (z80Bytes i).take k, w⟩ = if k < p.m1 then .fetch else .operand
  stackReads : ∀ (z : Z80Regs) pc r, p.stackReads { z with pc := pc, r := r } = p.stackReads z
  writes : ∀ (z : Z80Regs) pc r, p.writes { z with pc := pc, r := r } = p.writes z
  writes_le : ∀ z, (p.writes z).length ≤ 2

/-- Row by row, and for `program` byte by byte. -/
theorem rowShape_of_planOf {i : Instr} {p : Plan} (h : planOf i = some p) : RowShape i p := by
  have hz : i.isZ80 = true := by rw [← planOf_isSome, h]; rfl
  have hdec := decodeZ80_of_encode (encode_of_isZ80 hz)
  cases i <;> cases h
  all_goals
    refine ⟨hdec, rfl, fun _ => rfl, Nat.le_of_ble_eq_true rfl, Nat.le_of_ble_eq_true rfl, fun _ => rfl,
      fun k hk z w => ?_, fun _ _ _ => rfl, fun _ _ _ => rfl, fun _ => Nat.le_of_ble_eq_true rfl⟩
    simp only [z80Bytes, encode, List.length_cons, List.length_nil] at hk
    interval_cases k <;> rfl

/-- A row has a last byte. -/
theorem RowShape.last_byte {i : Instr} {p : Plan} (hrow : RowShape i p) (data : List Byte) :
    ∃ n, (z80Bytes i ++ data).length = n + 1 := by
  have hpos := hrow.m1_pos.trans_le hrow.m1_le
  exact Nat.exists_eq_add_one.mpr (by rw [List.length_append]; omega)

/-! ### The registers -/

theorem r7add_zero (x : Byte) : r7add x 0#8 = x := by
  apply BitVec.eq_of_toNat_eq
  rw [r7add_toNat, BitVec.toNat_ofNat]
  omega

/-- The registers after the first `k` reads of a row: PC has passed its program bytes, and R its M1 fetches, as
far as there are. -/
def passed (i : Instr) (p : Plan) (k : Nat) (z : Z80Regs) : Z80Regs :=
  { z with
    pc := z.pc + BitVec.ofNat 16 (min k (z80Bytes i).length)
    r := r7add z.r (BitVec.ofNat 8 (min k p.m1)) }

theorem passed_zero (i : Instr) (p : Plan) (z : Z80Regs) : passed i p 0 z = z := by
  simp only [passed, Nat.zero_min, BitVec.add_zero, r7add_zero]

theorem passed_operand {i : Instr} {p : Plan} {k : Nat} (hm : p.m1 ≤ k) (hk : k < (z80Bytes i).length)
    (z : Z80Regs) : passByte (passed i p k z) = passed i p (k + 1) z := by
  have hpc : min (k + 1) (z80Bytes i).length = min k (z80Bytes i).length + 1 := by omega
  have hr : min (k + 1) p.m1 = min k p.m1 := by omega
  simp only [passed, hpc, hr, passByte, BitVec.add_assoc, BitVec.ofNat_add]
  rfl

theorem passed_pc {i : Instr} {p : Plan} {k : Nat} (hk : k ≤ (z80Bytes i).length) (z : Z80Regs) :
    (passed i p k z).pc = z.pc + BitVec.ofNat 16 k := by
  rw [passed, min_eq_left hk]

/-- The Z80 after the first `k` of the bytes that it reads in a row, `data` those from the stack. -/
def midRow (i : Instr) (p : Plan) (data : List Byte) (z : Z80Regs) (k : Nat) : Z80 :=
  ⟨passed i p k z, (z80Bytes i ++ data).take k, 0⟩

theorem midRow_zero (i : Instr) (p : Plan) (data : List Byte) (z : Z80Regs) :
    midRow i p data z 0 = z80Idle z := by
  rw [midRow, passed_zero]
  rfl

/-- The Z80 that has read all bytes of a row and made `w` of its writes. -/
def wholeRow (i : Instr) (p : Plan) (data : List Byte) (z : Z80Regs) (w : Nat) : Z80 :=
  ⟨pastFetch p z, z80Bytes i ++ data, w⟩

section
variable {i : Instr} {p : Plan} (hrow : RowShape i p)
include hrow

theorem passed_opcode {k : Nat} (hk : k < p.m1) (z : Z80Regs) :
    passOpcode (passed i p k z) = passed i p (k + 1) z := by
  have hlen := hrow.m1_le
  have hpc : min (k + 1) (z80Bytes i).length = min k (z80Bytes i).length + 1 := by omega
  have hr : min (k + 1) p.m1 = min k p.m1 + 1 := by omega
  simp only [passed, hpc, hr, passOpcode, r7add_r7add, BitVec.add_assoc, BitVec.ofNat_add]
  rfl

theorem passed_end {k : Nat} (hk : (z80Bytes i).length ≤ k) (z : Z80Regs) :
    passed i p k z = pastFetch p z := by
  rw [passed, min_eq_right hk, min_eq_right (hrow.m1_le.trans hk), hrow.length z]
  rfl

/-! ### The next cycle -/

section
variable {data : List Byte} {z : Z80Regs} {k : Nat}

theorem z80Next_opcode (hk : k < p.m1) : z80Next (midRow i p data z k) = .fetch := by
  have hlen := hrow.m1_le
  rw [midRow, List.take_append_of_le_length (by omega), hrow.program k (by omega), if_pos hk]

theorem z80Next_operand (hm : p.m1 ≤ k) (hk : k < (z80Bytes i).length) :
    z80Next (midRow i p data z k) = .operand := by
  rw [midRow, List.take_append_of_le_length (by omega), hrow.program k hk, if_neg (by omega)]

/-- The Z80 that has all program bytes makes its stack reads, -/
theorem z80Next_reading {w : Nat} {a : Addr} (ha : (p.stackReads z)[data.length]? = some a) :
    z80Next ⟨z, z80Bytes i ++ data, w⟩ = .read a := by
  have hdec := hrow.decodes data
  simp [z80Next, afterPrefixRun_of_decodeZ80 hdec, hdec, hrow.plan, ha]

theorem z80Next_stack (hk : (z80Bytes i).length ≤ k) (hd : k - (z80Bytes i).length < data.length) {a : Addr}
    (ha : (p.stackReads z)[k - (z80Bytes i).length]? = some a) :
    z80Next (midRow i p data z k) = .read a := by
  have hreads : p.stackReads (passed i p k z) = p.stackReads z := hrow.stackReads z _ _
  rw [midRow, List.take_append, List.take_of_length_le hk]
  exact z80Next_reading hrow (by rwa [hreads, List.length_take, min_eq_left hd.le])

/-- then its writes, -/
theorem z80Next_writing (hd : data.length = (p.stackReads z).length) {w : Nat}
    (hw : w < (p.writes z).length) :
    z80Next (wholeRow i p data z w) = .write (p.writes z)[w].1 (p.writes z)[w].2 := by
  have hdec := hrow.decodes data
  have hreads : p.stackReads (pastFetch p z) = p.stackReads z := hrow.stackReads z _ _
  have hwrites : p.writes (pastFetch p z) = p.writes z := hrow.writes z _ _
  simp [wholeRow, z80Next, afterPrefixRun_of_decodeZ80 hdec, hdec, hrow.plan, hreads, hwrites, hd, hw]

/-- and then it is done. -/
theorem z80Next_written (hd : data.length = (p.stackReads z).length) {w : Nat}
    (hw : (p.writes z).length ≤ w) : z80Next (wholeRow i p data z w) = .retire p data := by
  have hdec := hrow.decodes data
  have hreads : p.stackReads (pastFetch p z) = p.stackReads z := hrow.stackReads z _ _
  have hwrites : p.writes (pastFetch p z) = p.writes z := hrow.writes z _ _
  simp [wholeRow, z80Next, afterPrefixRun_of_decodeZ80 hdec, hdec, hrow.plan, hreads, hwrites, hd, hw]

/-! ### One byte, and the end of a cycle -/

theorem midRow_end : midRow i p data z (z80Bytes i ++ data).length = wholeRow i p data z 0 := by
  rw [midRow, List.take_length, passed_end hrow (by simp)]
  rfl

variable (hd : data.length = (p.stackReads z).length)
include hd

/-- Before its last byte the Z80 reads, and takes the byte that it gets. -/
theorem z80Take_midRow {b : Byte} (hb : (z80Bytes i ++ data)[k]? = some b) :
    z80Take b (midRow i p data z k) = midRow i p data z (k + 1) := by
  obtain ⟨hk, -⟩ := List.getElem?_eq_some_iff.mp hb
  rw [List.length_append] at hk
  have hnext : midRow i p data z (k + 1) =
      ⟨passed i p (k + 1) z, (z80Bytes i ++ data).take k ++ [b], 0⟩ := by
    rw [midRow, List.take_add_one, hb]
    rfl
  rw [hnext]
  by_cases hm : k < p.m1
  · rw [z80Take, z80Next_opcode hrow hm, ← passed_opcode hrow hm]
    rfl
  · by_cases hp : k < (z80Bytes i).length
    · rw [z80Take, z80Next_operand hrow (by omega) hp, ← passed_operand (by omega) hp]
      rfl
    · have ha : (p.stackReads z)[k - (z80Bytes i).length]? = some _ :=
        List.getElem?_eq_getElem (by omega)
      rw [z80Take, z80Next_stack hrow (by omega) (by omega) ha, passed_end hrow (k := k + 1) (by omega),
        ← passed_end hrow (k := k) (by omega)]
      rfl

/-- Before its last byte it is at a read. -/
theorem z80Next_midRow (hk : k < (z80Bytes i ++ data).length) :
    z80Next (midRow i p data z k) = .fetch ∨ z80Next (midRow i p data z k) = .operand ∨
      ∃ a, z80Next (midRow i p data z k) = .read a := by
  rw [List.length_append] at hk
  by_cases hm : k < p.m1
  · exact .inl (z80Next_opcode hrow hm)
  · by_cases hp : k < (z80Bytes i).length
    · exact .inr (.inl (z80Next_operand hrow (by omega) hp))
    · exact .inr (.inr ⟨_, z80Next_stack hrow (by omega) (by omega) (List.getElem?_eq_getElem (by omega))⟩)

/-- So the instruction does not end. -/
theorem z80Retire_midRow (free : Byte) (hk : k < (z80Bytes i ++ data).length) :
    z80Retire free (midRow i p data z k) = (false, midRow i p data z k) := by
  obtain hn | hn | ⟨a, hn⟩ := z80Next_midRow hrow hd hk <;> rw [z80Retire, hn]

/-- And no write is made. -/
theorem z80Writes_midRow (free : Byte) (n : Nat) (hk : k < (z80Bytes i ++ data).length) :
    z80Writes free n (midRow i p data z k) = ([], midRow i p data z k) := by
  cases n with
  | zero => rfl
  | succ n => obtain hn | hn | ⟨a, hn⟩ := z80Next_midRow hrow hd hk <;> rw [z80Writes, hn]

/-- Before its last write it does not end either. -/
theorem z80Retire_writing (free : Byte) {w : Nat} (hw : w < (p.writes z).length) :
    z80Retire free (wholeRow i p data z w) = (false, wholeRow i p data z w) := by
  rw [z80Retire, z80Next_writing hrow hd hw]

/-- Then it does, with the effect of its row. -/
theorem z80Retire_written (free : Byte) {w : Nat} (hw : (p.writes z).length ≤ w) :
    z80Retire free (wholeRow i p data z w) = (true, z80Idle (retire p free data (pastFetch p z))) := by
  rw [z80Retire, z80Next_written hrow hd hw]
  rfl

end
end

end Sys2Proof.Machine
end

section
/-! SUPPORT. The bus cycles of an instruction that none waits, one after the other (46_injection.md R361,
20_memory.md R85 to R87). -/

namespace Sys2Proof.Machine

/-! ### One bus cycle that does not wait -/

/-- The Z80 is on the bus, its memory cycles do not wait, and memory is not paged out. -/
def RunsFree (s : State) : Prop := offBus s = false ∧ s.eng.waitGenMem = false ∧ s.trk.pageOut = false

theorem z80Free_iff {s : State} :
    z80Free s = true ↔ RunsFree s ∧ s.world.z80 = z80Idle s.world.z80.regs := by
  cases hz : s.world.z80
  simp [z80Free, RunsFree, hz, z80Idle, and_assoc]

/-- The moves of the Z80 alone leave it free. -/
theorem RunsFree.withMemZ80 {s : State} (h : RunsFree s) (m : Memory) (z : Z80) :
    RunsFree (s.withWorld { s.world with mem := m, z80 := z }) := h

section
variable {s : State} (h : RunsFree s)
include h

/-- A read cycle gives the Z80 the byte in memory. -/
theorem startCycle_read {f : CtrlFlags} (hf : f = flagsFetch ∨ f = flagsRead) (a : Addr) :
    startCycle f a 0 true s = z80Step (z80Take (memRead a s)) s := by
  obtain ⟨-, hmem, hpage⟩ := h
  have hwait : waitsFor (sixFlags f) s = false := by obtain rfl | rfl := hf <;> exact hmem
  have hread : isRead (sixFlags f) = true := by obtain rfl | rfl := hf <;> decide
  have hmr : isMemRead (sixFlags f) = true := by obtain rfl | rfl := hf <;> decide
  simp [startCycle, hwait, completeCycle, hread, received, hmr, hpage]

/-- A write cycle stores its byte. -/
theorem startCycle_write (a : Addr) (b : Byte) :
    startCycle flagsWrite a b true s = z80Step z80Wrote (memWrite a b s) := by
  obtain ⟨-, hmem, hpage⟩ := h
  have hwait : waitsFor (sixFlags flagsWrite) s = false := hmem
  have hread : isRead (sixFlags flagsWrite) = false := by decide
  have hmw : isMemWrite (sixFlags flagsWrite) = true := by decide
  simp [startCycle, hwait, completeCycle, hread, hmw, hpage]

theorem z80Cycle_opcode (hn : z80Next s.world.z80 = .fetch) :
    z80Cycle s = z80Step (z80Take (memRead s.world.z80.regs.pc s)) s := by
  rw [z80Cycle, if_neg (by simp [h.1]), hn]
  exact startCycle_read h (.inl rfl) _

theorem z80Cycle_operand (hn : z80Next s.world.z80 = .operand) :
    z80Cycle s = z80Step (z80Take (memRead s.world.z80.regs.pc s)) s := by
  rw [z80Cycle, if_neg (by simp [h.1]), hn]
  exact startCycle_read h (.inr rfl) _

theorem z80Cycle_stackRead {a : Addr} (hn : z80Next s.world.z80 = .read a) :
    z80Cycle s = z80Step (z80Take (memRead a s)) s := by
  rw [z80Cycle, if_neg (by simp [h.1]), hn]
  exact startCycle_read h (.inr rfl) a

theorem z80Cycle_write {a : Addr} {b : Byte} (hn : z80Next s.world.z80 = .write a b) :
    z80Cycle s = z80Step z80Wrote (memWrite a b s) := by
  rw [z80Cycle, if_neg (by simp [h.1]), hn]
  exact startCycle_write h a b

end

/-- The end of a cycle after which the instruction goes on. -/
theorem z80Step_goes {f : Z80 → Z80} {s : State} {z : Z80} (hz : f s.world.z80 = z)
    (h : ∀ free, z80Retire free z = (false, z)) :
    z80Step f s = s.withWorld { s.world with z80 := z } := by
  rw [z80Step, hz, h]

/-- The end of the last cycle of an instruction. -/
theorem z80Step_ends {f : Z80 → Z80} {s : State} {z : Z80} {r : Byte → Z80Regs} (hz : f s.world.z80 = z)
    (h : ∀ free, z80Retire free z = (true, z80Idle (r free))) :
    z80Step f s = s.withWorld { s.world with
      z80 := z80Idle (r (Config.freeFlags s.world.draws)), draws := s.world.draws + 1 } := by
  rw [z80Step, hz, h]

theorem z80Cycles_add (m n : Nat) (s : State) : z80Cycles (m + n) s = z80Cycles n (z80Cycles m s) := by
  induction m generalizing s with
  | zero => rw [Nat.zero_add, z80Cycles]
  | succ m ih => rw [Nat.add_right_comm, z80Cycles, ih, z80Cycles]

/-! ### The cycles of a row -/

theorem writeAll_concat (ws : List (Addr × Byte)) (w : Addr × Byte) (m : Memory) :
    writeAll (ws ++ [w]) m = Memory.write (writeAll ws m) w.1 w.2 := List.foldl_concat ..

/-- The bytes that the stack reads of a row find in memory. -/
def stackData (p : Plan) (s : State) : List Byte :=
  (p.stackReads s.world.z80.regs).map (fun a => memRead a s)

theorem stackData_length (p : Plan) (s : State) :
    (stackData p s).length = (p.stackReads s.world.z80.regs).length := List.length_map _

/-- The state after the first `k` reads of a row. -/
def readState (i : Instr) (p : Plan) (s : State) (k : Nat) : State :=
  s.withWorld { s.world with z80 := midRow i p (stackData p s) s.world.z80.regs k }

/-- The state after all reads of a row and its first `w` writes; with the last of them the row has run. -/
def writeState (i : Instr) (p : Plan) (s : State) (w : Nat) : State :=
  if w < (p.writes s.world.z80.regs).length then
    s.withWorld { s.world with
      mem := writeAll ((p.writes s.world.z80.regs).take w) s.world.mem
      z80 := wholeRow i p (stackData p s) s.world.z80.regs w }
  else runPlan p s

section
variable {i : Instr} {p : Plan} {s : State} (hrow : RowShape i p)
include hrow

/-- The writes of a row are of the registers before it and after its fetches alike, and so are its reads. -/
theorem runPlan_eq : runPlan p s = s.withWorld { s.world with
    mem := writeAll (p.writes s.world.z80.regs) s.world.mem
    z80 := z80Idle (retire p (Config.freeFlags s.world.draws) (stackData p s)
      (pastFetch p s.world.z80.regs))
    draws := s.world.draws + 1 } := by
  have hreads : p.stackReads (pastFetch p s.world.z80.regs) = _ := hrow.stackReads s.world.z80.regs _ _
  have hwrites : p.writes (pastFetch p s.world.z80.regs) = _ := hrow.writes s.world.z80.regs _ _
  simp only [runPlan, hreads, hwrites, stackData]

/-- The end of the last read, or of a write, of a row. -/
theorem z80Step_writeState {f : Z80 → Z80} {t : State} {w : Nat}
    (hw : w ≤ (p.writes s.world.z80.regs).length)
    (hf : f t.world.z80 = wholeRow i p (stackData p s) s.world.z80.regs w)
    (ht : ∃ z, t = s.withWorld { s.world with
      mem := writeAll ((p.writes s.world.z80.regs).take w) s.world.mem, z80 := z }) :
    z80Step f t = writeState i p s w := by
  have hd := stackData_length p s
  obtain ⟨z, rfl⟩ := ht
  unfold writeState
  split
  · exact z80Step_goes hf fun free => z80Retire_writing hrow hd free ‹_›
  · rename_i hlast
    obtain rfl : w = _ := le_antisymm hw (not_lt.mp hlast)
    rw [z80Step_ends hf fun free => z80Retire_written hrow hd free le_rfl, runPlan_eq hrow, List.take_length]
    rfl

variable (hfree : RunsFree s)
include hfree

/-- One write of a row. -/
theorem z80Cycle_writeState {w : Nat} (hw : w < (p.writes s.world.z80.regs).length) :
    z80Cycle (writeState i p s w) = writeState i p s (w + 1) := by
  have hd := stackData_length p s
  have hrun := hfree.withMemZ80 (writeAll ((p.writes s.world.z80.regs).take w) s.world.mem)
    (wholeRow i p (stackData p s) s.world.z80.regs w)
  rw [writeState, if_pos hw, z80Cycle_write hrun (z80Next_writing hrow hd hw)]
  refine z80Step_writeState hrow hw rfl ⟨wholeRow i p (stackData p s) s.world.z80.regs w, ?_⟩
  rw [← List.take_concat_get' _ _ hw, writeAll_concat]
  rfl

/-- All writes of a row. -/
theorem z80Cycles_writeState {w : Nat} (hw : w ≤ (p.writes s.world.z80.regs).length) :
    z80Cycles w (writeState i p s 0) = writeState i p s w := by
  induction w with
  | zero => rfl
  | succ w ih =>
    rw [z80Cycles_add, ih (by omega), z80Cycles, z80Cycles, z80Cycle_writeState hrow hfree hw]

end

/-- The program bytes are the bytes in memory from PC on. -/
theorem memRead_program {i : Instr} {s : State} {rest : List Byte}
    (hpc : bytesAtPc s = z80Bytes i ++ rest) {k : Nat} (hk : k < (z80Bytes i).length) :
    memRead (s.world.z80.regs.pc + BitVec.ofNat 16 k) s = (z80Bytes i)[k] := by
  have hlen : (z80Bytes i).length + rest.length = 4 := by rw [← List.length_append, ← hpc]; rfl
  have hget : (bytesAtPc s)[k]? = some (z80Bytes i)[k] := by
    rw [hpc, List.getElem?_append_left hk, List.getElem?_eq_getElem hk]
  have hfour : k < 4 := by omega
  interval_cases k <;> simpa [bytesAtPc] using hget

section
variable {i : Instr} {p : Plan} {s : State} {rest : List Byte} {k : Nat} (hrow : RowShape i p)
  (hfree : RunsFree s) (hpc : bytesAtPc s = z80Bytes i ++ rest)
include hrow hfree hpc

/-- One read of a row: the byte that its cycle finds in memory. -/
theorem z80Cycle_readState (hk : k < (z80Bytes i ++ stackData p s).length) :
    z80Cycle (readState i p s k) =
      z80Step (z80Take (z80Bytes i ++ stackData p s)[k]) (readState i p s k) := by
  have hd := stackData_length p s
  have hrun : RunsFree (readState i p s k) := hfree
  have hprogram (hp : k < (z80Bytes i).length) : memRead (readState i p s k).world.z80.regs.pc
      (readState i p s k) = (z80Bytes i ++ stackData p s)[k] := by
    rw [List.getElem_append_left hp, ← memRead_program hpc hp, ← passed_pc (p := p) hp.le]
    rfl
  by_cases hm : k < p.m1
  · rw [z80Cycle_opcode hrun (z80Next_opcode hrow hm), hprogram (hm.trans_le hrow.m1_le)]
  · by_cases hp : k < (z80Bytes i).length
    · rw [z80Cycle_operand hrun (z80Next_operand hrow (by omega) hp), hprogram hp]
    · rw [List.length_append] at hk
      have ha : (p.stackReads s.world.z80.regs)[k - (z80Bytes i).length]? = some _ :=
        List.getElem?_eq_getElem (by omega)
      rw [z80Cycle_stackRead hrun (z80Next_stack hrow (by omega) (by omega) ha),
        List.getElem_append_right (by omega)]
      simp only [stackData, List.getElem_map]
      rfl

/-- The reads of a row before the last. -/
theorem z80Cycles_readState (hk : k < (z80Bytes i ++ stackData p s).length) :
    z80Cycles k (readState i p s 0) = readState i p s k := by
  have hd := stackData_length p s
  induction k with
  | zero => rfl
  | succ k ih =>
    have hb := List.getElem?_eq_getElem (Nat.lt_of_succ_lt hk)
    rw [z80Cycles_add, ih (by omega), z80Cycles, z80Cycles,
      z80Cycle_readState hrow hfree hpc (Nat.lt_of_succ_lt hk),
      z80Step_goes (z80Take_midRow hrow hd hb) fun free => z80Retire_midRow hrow hd free hk]
    rfl

/-- All reads of a row. -/
theorem z80Cycles_reads :
    z80Cycles (z80Bytes i ++ stackData p s).length (readState i p s 0) = writeState i p s 0 := by
  have hd := stackData_length p s
  obtain ⟨n, hn⟩ := hrow.last_byte (stackData p s)
  have hlast : n < (z80Bytes i ++ stackData p s).length := by omega
  rw [hn, z80Cycles_add, z80Cycles_readState hrow hfree hpc hlast, z80Cycles, z80Cycles,
    z80Cycle_readState hrow hfree hpc hlast]
  refine z80Step_writeState hrow (Nat.zero_le _) ?_ ⟨_, rfl⟩
  rw [← midRow_end hrow, hn]
  exact z80Take_midRow hrow hd (List.getElem?_eq_getElem hlast)

end

/-- Settles O49: the reads of a row, one after the other, and then its writes. -/
theorem zCyclesAddUpToInstruction : Obligations.ZCyclesAddUpToInstruction := by
  intro s i rest p hf hdec hp
  have hrow := rowShape_of_planOf hp
  obtain ⟨hfree, hidle⟩ := z80Free_iff.mp hf
  have hpc := bytes_of_decodeZ80 hdec
  have hcount : p.m1 + p.rd = (z80Bytes i ++ stackData p s).length := by
    rw [hrow.reads s.world.z80.regs, List.length_append, stackData_length]
  have hstart : s = readState i p s 0 := by
    rw [readState, midRow_zero, ← hidle]
    rfl
  have hend : writeState i p s (p.writes s.world.z80.regs).length = runPlan p s := if_neg (lt_irrefl _)
  have hcycles : z80Cycles (p.m1 + p.rd + (p.writes s.world.z80.regs).length) s = runPlan p s :=
    calc z80Cycles (p.m1 + p.rd + (p.writes s.world.z80.regs).length) s
      _ = z80Cycles (p.writes s.world.z80.regs).length
            (z80Cycles (z80Bytes i ++ stackData p s).length (readState i p s 0)) := by
          rw [z80Cycles_add, hcount, ← hstart]
      _ = writeState i p s (p.writes s.world.z80.regs).length := by
          rw [z80Cycles_reads hrow hfree hpc, z80Cycles_writeState hrow hfree le_rfl]
      _ = runPlan p s := hend
  rw [exec_of_planOf hp, z80Exec, if_pos hf, hcycles]

end Sys2Proof.Machine
end

section
/-! SUPPORT. The Z80 fed the bytes of whole rows, one row after another (46_injection.md R360, R361). -/

namespace Sys2Proof.Machine

/-! ### One row -/

/-- A Z80 between two instructions needs a byte. -/
theorem z80Writes_idle (free : Byte) (n : Nat) (z : Z80Regs) :
    z80Writes free n (z80Idle z) = ([], z80Idle z) := by
  cases n <;> rfl

section
variable {i : Instr} {p : Plan} {data : List Byte} {z : Z80Regs} (hrow : RowShape i p)
  (hd : data.length = (p.stackReads z).length)
include hrow hd

/-- The writes that a row has left, and its end. -/
theorem z80Writes_wholeRow (free : Byte) {w n : Nat} (hn : (p.writes z).length ≤ w + n) :
    z80Writes free n (z80Retire free (wholeRow i p data z w)).2 =
      ((p.writes z).drop w, z80Idle (retire p free data (pastFetch p z))) := by
  induction n generalizing w with
  | zero =>
    rw [Nat.add_zero] at hn
    rw [z80Retire_written hrow hd free hn, z80Writes_idle, List.drop_of_length_le hn]
  | succ n ih =>
    by_cases hw : w < (p.writes z).length
    · have hrest := ih (w := w + 1) (by omega)
      rw [z80Retire_writing hrow hd free hw, z80Writes, z80Next_writing hrow hd hw,
        List.drop_eq_getElem_cons hw]
      exact congrArg (fun r => ((p.writes z)[w] :: r.1, r.2)) hrest
    · rw [z80Retire_written hrow hd free (by omega), z80Writes_idle, List.drop_of_length_le (by omega)]

/-- The bytes of a row before its last: the Z80 makes no write. -/
theorem z80Feed_midRow (free : Byte) {k : Nat} (hk : k < (z80Bytes i ++ data).length) :
    z80Feed free ((z80Bytes i ++ data).take k) (z80Idle z) = ([], midRow i p data z k) := by
  induction k with
  | zero => rw [midRow_zero]; rfl
  | succ k ih =>
    have hlt := Nat.lt_of_succ_lt hk
    rw [← List.take_concat_get' _ _ hlt, z80Feed_append, ih hlt, z80Feed_singleton,
      z80Take_midRow hrow hd (List.getElem?_eq_getElem hlt), z80Retire_midRow hrow hd free hk,
      z80Writes_midRow hrow hd free 2 hk]
    rfl

/-- A whole row fed: its writes, and its effect past its fetches. -/
theorem z80Feed_row (free : Byte) : z80Feed free (z80Bytes i ++ data) (z80Idle z) =
    (p.writes z, z80Idle (retire p free data (pastFetch p z))) := by
  obtain ⟨n, hn⟩ := hrow.last_byte data
  have hlast : n < (z80Bytes i ++ data).length := by omega
  have hall : (z80Bytes i ++ data).take n ++ [(z80Bytes i ++ data)[n]] = z80Bytes i ++ data := by
    rw [List.take_concat_get', ← hn, List.take_length]
  rw [← hall, z80Feed_append, z80Feed_midRow hrow hd free hlast, z80Feed_singleton,
    z80Take_midRow hrow hd (List.getElem?_eq_getElem hlast), ← hn, midRow_end hrow,
    z80Writes_wholeRow hrow hd free (by simpa using hrow.writes_le z)]
  rfl

end

/-! ### Rows one after another -/

/-- The writes of a row that is fed with its stack data, and the registers after it. -/
def runRow (free : Byte) (row : Instr × List Byte) (z : Z80Regs) : List (Addr × Byte) × Z80Regs :=
  match planOf row.1 with
  | some p => (p.writes z, retire p free row.2 (pastFetch p z))
  | none => ([], z)

/-- The writes of rows that are fed one after another, and the registers after them. -/
def runRows (free : Byte) : List (Instr × List Byte) → Z80Regs → List (Addr × Byte) × Z80Regs
  | [], z => ([], z)
  | row :: rows, z =>
    ((runRow free row z).1 ++ (runRows free rows (runRow free row z).2).1,
      (runRows free rows (runRow free row z).2).2)

/-- The bytes of rows, each followed by its stack data. -/
def rowBytes (rows : List (Instr × List Byte)) : List Byte :=
  rows.flatMap (fun row => z80Bytes row.1 ++ row.2)

/-- A row of 46_injection.md R361 with as many bytes from the stack as it reads. -/
def RowFits (row : Instr × List Byte) : Prop :=
  ∃ p, planOf row.1 = some p ∧ ∀ z, row.2.length = (p.stackReads z).length

theorem rowBytes_cons (row : Instr × List Byte) (rows : List (Instr × List Byte)) :
    rowBytes (row :: rows) = z80Bytes row.1 ++ row.2 ++ rowBytes rows := List.flatMap_cons

theorem z80Feed_rows (free : Byte) {rows : List (Instr × List Byte)} (h : ∀ row ∈ rows, RowFits row)
    (z : Z80Regs) :
    z80Feed free (rowBytes rows) (z80Idle z) =
      ((runRows free rows z).1, z80Idle (runRows free rows z).2) := by
  induction rows generalizing z with
  | nil => rfl
  | cons row rows ih =>
    obtain ⟨⟨p, hp, hd⟩, hrows⟩ := List.forall_mem_cons.mp h
    have hrun : runRow free row z = (p.writes z, retire p free row.2 (pastFetch p z)) := by
      rw [runRow, hp]
    rw [rowBytes_cons, z80Feed_append, z80Feed_row (rowShape_of_planOf hp) (hd z), ih hrows, runRows, hrun]

/-! ### What each row does (46_injection.md R361) -/

section
variable (free : Byte) (data : List Byte) (z : Z80Regs)

@[simp] theorem runRow_pushAf : runRow free (.pushAf, data) z =
    (pushWrites z.sp z.af, { fetched 1 1 z with sp := z.sp - 2 }) := rfl
@[simp] theorem runRow_popAf : runRow free (.popAf, data) z =
    ([], { fetched 1 1 z with af := popPair data, sp := z.sp + 2 }) := rfl
@[simp] theorem runRow_pushIx : runRow free (.pushIx, data) z =
    (pushWrites z.sp z.ix, { fetched 2 2 z with sp := z.sp - 2 }) := rfl
@[simp] theorem runRow_pushIy : runRow free (.pushIy, data) z =
    (pushWrites z.sp z.iy, { fetched 2 2 z with sp := z.sp - 2 }) := rfl
@[simp] theorem runRow_ldAR : runRow free (.ldAR, data) z =
    ([], { fetched 2 2 z with af := pair (r7add z.r 2) (flagsAfterLdAR free) }) := rfl
@[simp] theorem runRow_ldAI : runRow free (.ldAI, data) z =
    ([], { fetched 2 2 z with af := pair z.i (flagsAfterLdAI free z.iff2) }) := rfl
@[simp] theorem runRow_ldRA : runRow free (.ldRA, data) z =
    ([], { fetched 2 2 z with r := hi z.af }) := rfl
@[simp] theorem runRow_ldIA : runRow free (.ldIA, data) z =
    ([], { fetched 2 2 z with i := hi z.af }) := rfl
@[simp] theorem runRow_ldMemA (nn : Addr) : runRow free (.ldMemA nn, data) z =
    ([(nn, hi z.af)], fetched 3 1 z) := rfl
@[simp] theorem runRow_ldMemHl (nn : Addr) : runRow free (.ldMemHl nn, data) z =
    (storeWrites nn z.hl, fetched 3 1 z) := rfl
@[simp] theorem runRow_ldMemDe (nn : Addr) : runRow free (.ldMemDe nn, data) z =
    (storeWrites nn z.de, fetched 4 2 z) := rfl
@[simp] theorem runRow_ldMemBc (nn : Addr) : runRow free (.ldMemBc nn, data) z =
    (storeWrites nn z.bc, fetched 4 2 z) := rfl
@[simp] theorem runRow_ldAN (n : Byte) : runRow free (.ldAN n, data) z =
    ([], { fetched 2 1 z with af := pair n (lo z.af) }) := rfl
@[simp] theorem runRow_ldBcNn (nn : BitVec 16) : runRow free (.ldBcNn nn, data) z =
    ([], { fetched 3 1 z with bc := nn }) := rfl
@[simp] theorem runRow_ldDeNn (nn : BitVec 16) : runRow free (.ldDeNn nn, data) z =
    ([], { fetched 3 1 z with de := nn }) := rfl
@[simp] theorem runRow_ldHlNn (nn : BitVec 16) : runRow free (.ldHlNn nn, data) z =
    ([], { fetched 3 1 z with hl := nn }) := rfl
@[simp] theorem runRow_ldSpNn (nn : BitVec 16) : runRow free (.ldSpNn nn, data) z =
    ([], { fetched 3 1 z with sp := nn }) := rfl
@[simp] theorem runRow_ldIxNn (nn : BitVec 16) : runRow free (.ldIxNn nn, data) z =
    ([], { fetched 4 2 z with ix := nn }) := rfl
@[simp] theorem runRow_ldIyNn (nn : BitVec 16) : runRow free (.ldIyNn nn, data) z =
    ([], { fetched 4 2 z with iy := nn }) := rfl
@[simp] theorem runRow_exx : runRow free (.exx, data) z =
    ([], { fetched 1 1 z with
      bc := z.bcAlt, de := z.deAlt, hl := z.hlAlt, bcAlt := z.bc, deAlt := z.de, hlAlt := z.hl }) := rfl
@[simp] theorem runRow_exAfAf : runRow free (.exAfAf, data) z =
    ([], { fetched 1 1 z with af := z.afAlt, afAlt := z.af }) := rfl
@[simp] theorem runRow_jrD (d : Byte) : runRow free (.jrD d, data) z =
    ([], { fetched 2 1 z with pc := z.pc + 2 + signExtend16 d }) := rfl
@[simp] theorem runRow_jpNn (nn : Addr) : runRow free (.jpNn nn, data) z =
    ([], { fetched 3 1 z with pc := nn }) := rfl

end

/-! ### SET -/

/-- The row `im` of an interrupt mode (46_injection.md R370). -/
def imInstr (im : Byte) : Instr := if im = 0 then .im0 else if im = 1 then .im1 else .im2

/-- The program of a SET (46_injection.md R370): its rows, each with the stack data that it is fed. -/
def setRows (r : Z80Registers) : List (Instr × List Byte) :=
  [(.ldBcNn r.bcAlt, []), (.ldDeNn r.deAlt, []), (.ldHlNn r.hlAlt, []), (.exx, []),
   (.ldBcNn r.bc, []), (.ldDeNn r.de, []), (.ldHlNn r.hl, []), (.ldIxNn r.ix, []), (.ldIyNn r.iy, []),
   (.ldSpNn (r.sp - 4), []), (.popAf, [lo r.afAlt, hi r.afAlt]), (.exAfAf, []),
   (.ldAN r.i, []), (.ldIA, []), (imInstr r.im, []), (.ldAN (r7sub r.r 3), []), (.ldRA, []),
   (.popAf, [lo r.af, hi r.af]), (if r.iff then .ei else .di, []), (.jpNn r.pc, [])]

/-- The mode that the row `im` of an interrupt mode sets. -/
def imMode (im : Byte) : IntMode := if im = 0 then .im0 else if im = 1 then .im1 else .im2

theorem imByte_imMode {im : Byte} (h : imSettable im) : imByte (imMode im) = im := by
  obtain rfl | rfl | rfl := h <;> rfl

theorem z80Bytes_imInstr (im : Byte) : z80Bytes (imInstr im) = [0xED, imOpcode im] := by
  unfold imInstr imOpcode
  split
  · rfl
  · split <;> rfl

theorem z80Bytes_enable (e : Bool) : z80Bytes (if e then .ei else .di) = [if e then 0xFB else 0xF3] := by
  cases e <;> rfl

@[simp] theorem runRow_imInstr (free im : Byte) (z : Z80Regs) :
    runRow free (imInstr im, []) z = ([], { fetched 2 2 z with im := imMode im }) := by
  unfold imInstr imMode
  split
  · rfl
  · split <;> rfl

@[simp] theorem runRow_enable (free : Byte) (e : Bool) (z : Z80Regs) :
    runRow free (if e then .ei else .di, []) z =
      ([], { fetched 1 1 z with iff1 := e, iff2 := e, eiShadow := e }) := by
  cases e <;> rfl

theorem setTemplate_eq_rowBytes (r : Z80Registers) : setTemplate r = rowBytes (setRows r) := by
  simp only [setRows, rowBytes_cons, z80Bytes_imInstr, z80Bytes_enable]
  rfl

theorem rowFits_imInstr (im : Byte) : RowFits (imInstr im, []) := by
  unfold imInstr
  split
  · exact ⟨_, rfl, fun _ => rfl⟩
  · split <;> exact ⟨_, rfl, fun _ => rfl⟩

theorem rowFits_enable (e : Bool) : RowFits (if e then .ei else .di, []) := by
  cases e <;> exact ⟨_, rfl, fun _ => rfl⟩

theorem setRows_fit (r : Z80Registers) : ∀ row ∈ setRows r, RowFits row := by
  simp only [setRows, List.forall_mem_cons, List.not_mem_nil, false_imp_iff, implies_true, rowFits_imInstr,
    rowFits_enable, true_and, and_true]
  and_intros <;> exact ⟨_, rfl, fun _ => rfl⟩

/-- The registers that a SET leaves (46_injection.md R371): the snapshot's, and no `ei` shadow, since `jp` comes
after the `ei`. -/
def setRegs (r : Z80Registers) : Z80Regs :=
  { pc := r.pc, sp := r.sp, af := r.af, bc := r.bc, de := r.de, hl := r.hl, ix := r.ix, iy := r.iy,
    afAlt := r.afAlt, bcAlt := r.bcAlt, deAlt := r.deAlt, hlAlt := r.hlAlt, i := r.i, r := r.r,
    im := imMode r.im, iff1 := r.iff, iff2 := r.iff, eiShadow := false }

/-- No row of a SET writes. R is loaded three M1 fetches early, and SP two pops early. -/
theorem runRows_setRows (free : Byte) (r : Z80Registers) (z : Z80Regs) :
    runRows free (setRows r) z = ([], setRegs r) := by
  have hr : r7add (r7add (r7add (r7sub r.r 3) 1) 1) 1 = r.r := by
    rw [r7add_r7add, r7add_r7add]
    exact r7add_r7sub r.r 3
  have hsp : r.sp - 4 + 2 + 2 = r.sp := by bv_omega
  simpa [setRows, runRows, fetched, popPair, setRegs] using And.intro hsp hr

theorem snapshotOf_setRegs {r : Z80Registers} (h : imSettable r.im) : snapshotOf (setRegs r) = r := by
  simp only [snapshotOf, setRegs, imByte_imMode h]

theorem z80Feed_setTemplate (free : Byte) (r : Z80Registers) (z : Z80Regs) :
    z80Feed free (setTemplate r) (z80Idle z) = ([], z80Idle (setRegs r)) := by
  rw [setTemplate_eq_rowBytes, z80Feed_rows free (setRows_fit r), runRows_setRows]

/-- Settles O50: the rows of a SET, one after another. -/
theorem setLoadsRegisters : Obligations.SetLoadsRegisters := by
  intro free z r him
  exact ⟨setRegs r, z80Feed_setTemplate free r z, snapshotOf_setRegs him, rfl, Bool.and_true _⟩

end Sys2Proof.Machine
end

section
/-! SUPPORT. The program of a GET as rows, its five patched bytes computed from its first captures
(46_injection.md R362 to R367). -/

namespace Sys2Proof.Machine

/-! ### A GET whose patched bytes are known -/

/-- A GET is fed what a list of bytes is, where no capture still to come changes a byte of it. -/
theorem getFeed_eq_z80Feed (free : Byte) {g : Nat → Byte} {cap : List (Addr × Byte)} {ks : List Nat}
    (h : ∀ k ∈ ks, ∀ later, getByte (cap ++ later) getTemplate k = g k) (z : Z80) :
    getFeed free ks cap z =
      (cap ++ (z80Feed free (ks.map g) z).1, (z80Feed free (ks.map g) z).2) := by
  induction ks generalizing cap z with
  | nil => simp [getFeed, z80Feed]
  | cons k ks ih =>
    obtain ⟨hk, hks⟩ := List.forall_mem_cons.mp h
    have hbyte : getByte cap getTemplate k = g k := by simpa using hk []
    have hfeed : z80Feed free ((k :: ks).map g) z = z80Feed free ([g k] ++ ks.map g) z := rfl
    rw [getFeed, hbyte, hfeed, z80Feed_append]
    dsimp only
    rw [ih fun j hj later => by rw [List.append_assoc]; exact hks j hj _, List.append_assoc]

/-- The captures that the patched bytes are computed from: AF pushed, and R after three M1 fetches
(46_injection.md R364). -/
def firstCaptures (z : Z80Regs) : List (Addr × Byte) :=
  [(z.sp - 1, hi z.af), (z.sp - 2, lo z.af), (0, r7add z.r 3)]

theorem capSp0_firstCaptures (z : Z80Regs) : capSp0 (firstCaptures z) = z.sp := BitVec.sub_add_cancel z.sp 1

theorem capRb_firstCaptures (z : Z80Regs) : capRb (firstCaptures z) = z.r := r7sub_r7add z.r 3

/-- Only the first three captures are read. -/
theorem getByte_append (cap later : List (Addr × Byte)) (hcap : 3 ≤ cap.length) (k : Nat) :
    getByte (cap ++ later) getTemplate k = getByte cap getTemplate k := by
  have hat : ∀ j < 3, capAt (cap ++ later) j = capAt cap j := by
    intro j hj
    rw [capAt, capAt, List.getD_append _ _ _ _ (by omega)]
  simp only [getByte, capRb, capSp0, hat 0 (by decide), hat 1 (by decide), hat 2 (by decide)]

/-- A byte of a GET that is not patched is the template's. -/
theorem getByte_unpatched (cap : List (Addr × Byte)) (seq : List Byte) {k : Nat}
    (hk : k ∉ [41, 45, 46, 48, 49]) : getByte cap seq k = seq.getD k 0 := by
  unfold getByte
  split
  case h_6 => rfl
  all_goals exact absurd hk (by decide)

/-- No byte before the first patched one is. -/
theorem getByte_early (cap : List (Addr × Byte)) {k : Nat} (hk : k < 41) :
    getByte cap getTemplate k = getTemplate.getD k 0 :=
  getByte_unpatched cap getTemplate (by simp only [List.mem_cons, List.not_mem_nil, or_false]; omega)

/-! ### Its rows -/

/-- The rows up to the third capture. -/
def getRowsFirst : List (Instr × List Byte) := [(.pushAf, []), (.ldAR, []), (.ldMemA 0, [])]

/-- The rows after the third capture, on a Z80 that began with the registers `z`. -/
def getRowsRest (z : Z80Regs) : List (Instr × List Byte) :=
  [(.ldAI, []), (.pushAf, []), (.ldMemDe 0, []), (.ldMemBc 0, []), (.ldMemHl 0, []), (.exx, []),
   (.ldMemHl 0, []), (.ldMemDe 0, []), (.ldMemBc 0, []), (.exx, []), (.exAfAf, []), (.pushAf, []),
   (.exAfAf, []), (.pushIx, []), (.pushIy, []), (.ldAN (r7sub z.r 3), []), (.ldRA, []),
   (.ldSpNn (z.sp - 2), []), (.popAf, [lo z.af, hi z.af]), (.jrD 0xCE, [])]

theorem getRowsFirst_bytes : (List.range 6).map (fun k => getTemplate.getD k 0) = rowBytes getRowsFirst := rfl

theorem getRowsRest_bytes (z : Z80Regs) :
    (List.range' 6 46).map (getByte (firstCaptures z) getTemplate) = rowBytes (getRowsRest z) :=
  calc (List.range' 6 46).map (getByte (firstCaptures z) getTemplate)
    _ = (List.range' 6 35).map (fun k => getTemplate.getD k 0) ++
          [r7sub (capRb (firstCaptures z)) 3, 0xED, 0x4F, 0x31, lo (capSp0 (firstCaptures z) - 2),
            hi (capSp0 (firstCaptures z) - 2), 0xF1, lo z.af, hi z.af, 0x18, 0xCE] := rfl
    _ = rowBytes (getRowsRest z) := by
      rw [capRb_firstCaptures, capSp0_firstCaptures]
      rfl

theorem getRowsFirst_fit : ∀ row ∈ getRowsFirst, RowFits row := by
  simp only [getRowsFirst, List.forall_mem_cons, List.not_mem_nil, false_imp_iff, implies_true,
    and_true]
  and_intros <;> exact ⟨_, rfl, fun _ => rfl⟩

theorem getRowsRest_fit (z : Z80Regs) : ∀ row ∈ getRowsRest z, RowFits row := by
  simp only [getRowsRest, List.forall_mem_cons, List.not_mem_nil, false_imp_iff, implies_true,
    and_true]
  and_intros <;> exact ⟨_, rfl, fun _ => rfl⟩

/-- The registers after the first rows. -/
def afterGetFirst (free : Byte) (z : Z80Regs) : Z80Regs :=
  { fetched 6 4 z with sp := z.sp - 2, af := pair (r7add z.r 3) (flagsAfterLdAR free) }

theorem runRows_getRowsFirst (free : Byte) (z : Z80Regs) :
    runRows free getRowsFirst z = (firstCaptures z, afterGetFirst free z) := by
  simp [getRowsFirst, runRows, fetched, pushWrites, firstCaptures, afterGetFirst, r7add_r7add,
    BitVec.add_assoc]

/-- The captures of the other rows. -/
def restCaptures (free : Byte) (z : Z80Regs) : List (Addr × Byte) :=
  [(z.sp - 3, z.i), (z.sp - 4, flagsAfterLdAI free z.iff2)] ++
  storeWrites 0 z.de ++ storeWrites 0 z.bc ++ storeWrites 0 z.hl ++
  storeWrites 0 z.hlAlt ++ storeWrites 0 z.deAlt ++ storeWrites 0 z.bcAlt ++
  [(z.sp - 5, hi z.afAlt), (z.sp - 6, lo z.afAlt), (z.sp - 7, hi z.ix), (z.sp - 8, lo z.ix)] ++
  [(z.sp - 9, hi z.iy), (z.sp - 10, lo z.iy)]

/-- The jump of a GET goes back over its 50 program bytes (46_injection.md R365). -/
theorem jr_back : 50 + signExtend16 0xCE = 0 := by decide

theorem runRows_getRowsRest (free : Byte) (z : Z80Regs) :
    runRows free (getRowsRest z) (afterGetFirst free z) =
      (restCaptures free z, { z with eiShadow := false }) := by
  simpa [getRowsRest, runRows, fetched, pushWrites, storeWrites, restCaptures, afterGetFirst, r7add_r7add,
    BitVec.add_assoc, popPair, sub_sub] using jr_back

/-- The captures of a GET, and the registers that it gives back. -/
theorem getRun_eq (free : Byte) (z : Z80Regs) :
    getRun free z = (firstCaptures z ++ restCaptures free z, z80Idle { z with eiShadow := false }) := by
  have hfirst : getFeed free (List.range 6) [] (z80Idle z) =
      (firstCaptures z, z80Idle (afterGetFirst free z)) := by
    rw [getFeed_eq_z80Feed free fun k hk later => getByte_early _ (by have := List.mem_range.mp hk; omega),
      getRowsFirst_bytes, z80Feed_rows free getRowsFirst_fit, runRows_getRowsFirst, List.nil_append]
  have hrest : getFeed free (List.range' 6 46) (firstCaptures z) (z80Idle (afterGetFirst free z)) =
      (firstCaptures z ++ restCaptures free z, z80Idle { z with eiShadow := false }) := by
    rw [getFeed_eq_z80Feed free fun k _ later => getByte_append (firstCaptures z) later le_rfl k,
      getRowsRest_bytes, z80Feed_rows free (getRowsRest_fit z), runRows_getRowsRest]
  have hrange : List.range 52 = List.range 6 ++ List.range' 6 46 := rfl
  rw [getRun, hrange, getFeed_append, hfirst, hrest]

/-- The captures decode to the registers (46_injection.md R366). -/
theorem decodeGet_captures (free : Byte) (z : Z80Regs) (imPrev : Byte) :
    decodeGet (firstCaptures z ++ restCaptures free z) z.pc imPrev =
      { snapshotOf z with im := imPrev } := by
  simpa [decodeGet, capAt, firstCaptures, restCaptures, storeWrites, snapshotOf]
    using flagsAfterLdAI_pv free z.iff2

/-- Settles O51: the rows of a GET, one after another. -/
theorem getReadsRegisters : Obligations.GetReadsRegisters := by
  intro free z imPrev
  exact ⟨_, getRun_eq free z, rfl, decodeGet_captures free z imPrev, rfl⟩

/-- Settles O52: a SET leaves the registers that a GET reads. -/
theorem registerRoundTrip : Obligations.RegisterRoundTrip := by
  intro free free' z z' r him hset
  rw [z80Feed_setTemplate] at hset
  obtain rfl : setRegs r = z' := congrArg Z80.regs hset
  rw [getRun_eq, decodeGet_captures, snapshotOf_setRegs him]

end Sys2Proof.Machine
end

section
/-! SUPPORT. The tracker's callback in an injection as the engine's word runs it: the byte supplied, the write
captured, and the end of the sequence (45_tracker.md R317, R324, 46_injection.md R363, R364, R380, R381). -/

namespace Sys2Proof.Machine

/-! ### The byte supplied -/

theorem suppliedByte_nextInjectByte {k : Tracker} (hk : k.cursor < k.seq.length) :
    SuppliedByte k (nextInjectByte k) := by
  have hseq : k.seq[k.cursor]? = some (k.seq.getD k.cursor 0) := by
    rw [List.getD_eq_getElem _ _ hk, List.getElem?_eq_getElem hk]
  refine ⟨fun hget => ?_, fun hset => ?_⟩
  · rw [nextInjectByte, hget]
    have hpatched : ∀ j, k.cursor = j → getByte k.cap k.seq k.cursor = getByte k.cap k.seq j :=
      fun j h => by rw [h]
    refine ⟨hpatched 41, hpatched 45, hpatched 46, hpatched 48, hpatched 49, fun h => ?_⟩
    rw [hseq]
    simp only [getByte_unpatched _ _ h]
  · rw [nextInjectByte, hset, hseq]

/-! ### The end of an injection -/

/-- The snapshot is valid exactly after an injection that was what its template assumes. -/
theorem injectionOk_iff (k : Tracker) : injectionOk k = true ↔ InjectionGood k := by
  simp [injectionOk, InjectionGood]

theorem finishRegs_get {k : Tracker} (hgood : InjectionGood k) (hget : k.seqKind = .get) :
    finishRegs k = { k with regs := decodeGet k.cap k.boundaryPc k.regs.im, regsValid := true } := by
  rw [finishRegs, if_pos ((injectionOk_iff k).mpr hgood), hget]

theorem finishRegs_set {k : Tracker} (hgood : InjectionGood k) (hset : k.seqKind = .set) :
    finishRegs k = { k with regs := k.setActive, getRequested := false, regsValid := true } := by
  rw [finishRegs, if_pos ((injectionOk_iff k).mpr hgood), hset]

theorem finishRegs_bad {k : Tracker} (hbad : ¬ InjectionGood k) :
    finishRegs k = { k with regsValid := false } :=
  if_neg (mt (injectionOk_iff k).mp hbad)

/-- The tracker that has supplied the byte `b` to a cycle with the flags `f`. -/
def Tracker.fed (f : CtrlFlags) (b : Byte) (k : Tracker) : Tracker :=
  k.supply (if flagM1 f then prefixByte b else k.hist0) (if flagM1 f then k.hist0 else k.hist1)

/-- The end of an injection after its last byte, the hold and the state apart. -/
theorem trackerAfterInjection_eq {k : Tracker} (hk : k.seqKind ≠ .none) (f : CtrlFlags) (b : Byte) :
    trackerAfterInjection f b k =
      { (k.fed f b).ended with holdArmed := k.holdArmed || k.haltAfter, state := .awaiting } := by
  have hsame : InjectionGood { k.fed f b with state := .postInject, pageOut := false } ↔ InjectionGood k :=
    Iff.rfl
  by_cases hgood : InjectionGood k
  · cases hkind : k.seqKind with
    | none => exact absurd hkind hk
    | get =>
      have hset : k.seqKind ≠ .set := by simp [hkind]
      have hkeeps : decide (InjectionGood k ∧ k.seqKind = .set) = false := decide_eq_false fun h => hset h.2
      rw [Tracker.ended, finishRegs_get (hsame.mpr hgood) hkind, trackerAfterInjection, hkeeps,
        decide_eq_true hgood, if_pos hgood, if_neg hset, Bool.not_false, Bool.and_true]
      rfl
    | set =>
      have hdrops : decide (InjectionGood k ∧ k.seqKind = .set) = true := decide_eq_true ⟨hgood, hkind⟩
      rw [Tracker.ended, finishRegs_set (hsame.mpr hgood) hkind, trackerAfterInjection, hdrops,
        decide_eq_true hgood, if_pos hgood, if_pos hkind, Bool.not_true, Bool.and_false]
      rfl
  · have hkeeps : decide (InjectionGood k ∧ k.seqKind = .set) = false := decide_eq_false fun h => hgood h.1
    rw [Tracker.ended, finishRegs_bad (mt hsame.mp hgood), trackerAfterInjection, hkeeps,
      decide_eq_false hgood, if_neg hgood, Bool.not_false, Bool.and_true]
    rfl

section
variable {s : State} {k : Tracker}

/-- The end of an injection with no disable pending. -/
theorem finishInjection_on (hd : k.disablePending = false) :
    finishInjection (s.withTrk k) = s.withTrk { k.ended with
      holdArmed := k.ended.holdArmed || k.ended.haltAfter, state := .awaiting } := by
  have hpending : k.ended.disablePending = false := by rw [Tracker.ended_frame]; exact hd
  exact if_neg (ne_true_of_eq_false hpending)

/-- The end of an injection with a disable pending. -/
theorem finishInjection_off (hd : k.disablePending = true) :
    finishInjection (s.withTrk k) = doDisable (s.withTrk k.ended) := by
  have hpending : k.ended.disablePending = true := by rw [Tracker.ended_frame]; exact hd
  exact if_pos hpending

end

/-! ### The step of an injection -/

section
variable {s : State} {addr : Addr} {data : Byte} {f : CtrlFlags}

/-- In an injection the callback is the injection's step, on every cycle. -/
theorem trackerOnWaitCycle_injecting (he : s.trk.enabled = true) (hi : s.trk.state = .injecting) :
    trackerOnWaitCycle addr data f s = injectStep addr data f s := by
  cases hm : isMem f with
  | true => simp [trackerOnWaitCycle, he, hm, hi]
  | false => simp [trackerOnWaitCycle, injectStep, isMemRead, isMemWrite, hm]

/-- A memory read is supplied its byte. -/
theorem injectStep_read (hr : isMemRead f = true) :
    injectStep addr data f s = (.injectOpcode (nextInjectByte s.trk),
      if s.trk.cursor + 1 = s.trk.seq.length then
        finishInjection (s.withTrk (s.trk.fed f (nextInjectByte s.trk)))
      else s.withTrk (s.trk.fed f (nextInjectByte s.trk))) := by
  have hfed : (if flagM1 f then recordFetch (nextInjectByte s.trk)
      (s.withTrk { s.trk with cursor := s.trk.cursor + 1 })
      else s.withTrk { s.trk with cursor := s.trk.cursor + 1 }) =
      s.withTrk (s.trk.fed f (nextInjectByte s.trk)) := by
    cases hm : flagM1 f <;> simp [Tracker.fed, Tracker.supply, recordFetch, hm]
  rw [injectStep, if_pos hr]
  simp only [hfed]
  rfl

/-- The last byte of an injection, with no disable pending. -/
theorem injectStep_last (hr : isMemRead f = true) (hlast : s.trk.cursor + 1 = s.trk.seq.length)
    (hk : s.trk.seqKind ≠ .none) (hd : s.trk.disablePending = false) :
    injectStep addr data f s = (.injectOpcode (nextInjectByte s.trk),
      s.withTrk (trackerAfterInjection f (nextInjectByte s.trk) s.trk)) := by
  have hfed : (s.trk.fed f (nextInjectByte s.trk)).disablePending = false := hd
  rw [injectStep_read hr, if_pos hlast, finishInjection_on hfed, trackerAfterInjection_eq hk,
    Tracker.ended_frame]
  rfl

/-- The last byte of an injection, with a disable pending: the tracker is switched off with its slot. -/
theorem injectStep_lastOff (hs : SocketsOk s) (hr : isMemRead f = true)
    (hlast : s.trk.cursor + 1 = s.trk.seq.length) (hk : s.trk.seqKind ≠ .none)
    (hd : s.trk.disablePending = true) :
    injectStep addr data f s = (.injectOpcode (nextInjectByte s.trk),
      (changeSocket 0 (switchOff s.trk.held) s).2.withTrk
        (trackerOff (trackerAfterInjection f (nextInjectByte s.trk) s.trk))) := by
  have hframe := (s.trk.fed f (nextInjectByte s.trk)).ended_frame
  have hheld : (s.trk.fed f (nextInjectByte s.trk)).ended.held = s.trk.held := by rw [hframe]; rfl
  have hsocket : (s.trk.fed f (nextInjectByte s.trk)).ended.socket = s.trk.socket := by rw [hframe]; rfl
  have hfed : (s.trk.fed f (nextInjectByte s.trk)).disablePending = true := hd
  rw [injectStep_read hr, if_pos hlast, finishInjection_off hfed, doDisable_withTrk hs hsocket, hheld,
    trackerAfterInjection_eq hk]
  rfl

/-- A memory write is counted and captured; the last of a GET asks for the mirror. -/
theorem injectStep_write (hw : isMemWrite f = true) :
    injectStep addr data f s = (.notDecoded,
      if s.trk.seqKind = .get ∧ s.trk.wrOrdinal = 22 then
        requestMirror (s.withTrk (captureWrite addr data s.trk))
      else s.withTrk (captureWrite addr data s.trk)) := by
  have hr : isMemRead f = false := by
    simp only [isMemWrite, isMemRead, Bool.and_eq_true, Bool.not_eq_true'] at hw ⊢
    simp [hw]
  rw [injectStep, if_neg (by simp [hr]), if_pos hw]
  simp [captureWrite]

/-- Every other cycle is ignored. -/
theorem injectStep_ignores (hr : isMemRead f = false) (hw : isMemWrite f = false) :
    injectStep addr data f s = (.notDecoded, s) := by
  simp [injectStep, hr, hw]

/-- The tracker's request for the mirror is made where it has none (46_injection.md R381). -/
theorem requestMirror_asks (hs : TableOk s) (hn : (sockAt s 0).busMasterRequest = none) :
    requestMirror s = setSock 0 { sockAt s 0 with busMasterRequest := some 0x01 } s := by
  obtain ⟨hsocket, hh, -⟩ := hs.tracker_slot
  simp [requestMirror, requestBus, hsocket, handleOk, hh, hn, mirrorReason]

theorem requestMirror_busy (hs : TableOk s) (hn : (sockAt s 0).busMasterRequest ≠ none) :
    requestMirror s = s := by
  obtain ⟨hsocket, hh, -⟩ := hs.tracker_slot
  simp [requestMirror, requestBus, hsocket, handleOk, hh, Option.isSome_iff_ne_none.mpr hn]

end

/-- The writes of an injection, as the word runs them. -/
theorem finish_captures {s : State} (hs : TableOk s) (addr : Addr) (data : Byte) {f : CtrlFlags}
    (hw : isMemWrite f = true) :
    ∃ t, finish (.ok (.decision (injectStep addr data f s).1), (injectStep addr data f s).2) = .next t ∧
      t = ((s.withTrk (captureWrite addr data s.trk)).withEng t.eng).answer (.ok (.decision .notDecoded)) ∧
      (s.trk.seqKind = .get → s.trk.wrOrdinal = 22 → (sockAt s 0).busMasterRequest = none →
        OnlySocket 0 { sockAt s 0 with busMasterRequest := some 0x01 } s t) ∧
      (s.trk.seqKind = .set ∨ s.trk.wrOrdinal ≠ 22 ∨ (sockAt s 0).busMasterRequest ≠ none →
        t.eng = s.eng) := by
  obtain ⟨-, -, hl⟩ := hs.tracker_slot
  have hcap : TableOk (s.withTrk (captureWrite addr data s.trk)) := hs
  rw [injectStep_write hw]
  by_cases hask : s.trk.seqKind = .get ∧ s.trk.wrOrdinal = 22
  · obtain ⟨hget, hlast⟩ := hask
    rw [if_pos ⟨hget, hlast⟩]
    by_cases hn : (sockAt s 0).busMasterRequest = none
    · rw [requestMirror_asks hcap hn]
      refine ⟨_, rfl, rfl, fun _ _ _ => ⟨rfl, setSock_length _ _ _, sockAt_setSock_self hl _,
        fun j hj => sockAt_setSock_other hj _⟩, fun h => ?_⟩
      obtain h | h | h := h
      · simp [hget] at h
      · exact absurd hlast h
      · exact absurd hn h
    · rw [requestMirror_busy hcap hn]
      exact ⟨_, rfl, rfl, fun _ _ h => absurd h hn, fun _ => rfl⟩
  · rw [if_neg hask]
    exact ⟨_, rfl, rfl, fun hget hlast _ => absurd ⟨hget, hlast⟩ hask, fun _ => rfl⟩

/-- Settles O43: one case for each kind of cycle of an injection. -/
theorem onWaitCycleInjects : Obligations.OnWaitCycleInjects := by
  intro s addr data f hissuer haddr hdata hflags hi hok hs
  have hcoh := trackerOk_iff.mp hok
  obtain ⟨he, -, hcursor⟩ := hcoh.running hi
  have hkind : s.trk.seqKind ≠ .none := hcoh.seqKind.mp hi
  have hbyte := suppliedByte_nextInjectByte hcursor
  rw [exec_onWaitCycle hissuer haddr hdata hflags, trackerOnWaitCycle_injecting he hi]
  refine ⟨finish_eq _ _, fun hr hmore => ⟨_, hbyte, ?_⟩, fun hr hlast hd => ⟨_, hbyte, ?_⟩,
    fun hr hlast hd => ?_, fun hw => ?_, fun hr hw => ?_⟩
  · rw [injectStep_read hr, if_neg hmore.ne, finish_eq]
    rfl
  · rw [injectStep_last hr hlast hkind hd, finish_eq]
  · rw [injectStep_lastOff hs hr hlast hkind hd]
    obtain ⟨t, hexec, hframe, hnum, hslot⟩ := finish_trackerSlot hs.1 (switchOff s.trk.held)
      (trackerOff (trackerAfterInjection f (nextInjectByte s.trk) s.trk))
      (.ok (.decision (.injectOpcode (nextInjectByte s.trk))))
    exact ⟨t, _, hbyte, hexec, hframe, hnum, hslot⟩
  · have hwrite := finish_captures hs.1 addr data hw
    simpa [captureWrite] using hwrite
  · rw [injectStep_ignores hr hw, finish_eq]

end Sys2Proof.Machine
end

section
/-! SUPPORT. Every step completes (60_exceptions.md R410): a command's only write of the port is its result, a
Z80 instruction writes none, and an illegal word changes nothing but the port (30_encoding.md R106). -/

namespace Sys2Proof.Machine

/-- From `s` a move answers a next state, and of the port it has written the result at most
(60_exceptions.md R417). -/
def Completes (s : State) (o : Host.Outcome State Fault Refusal) : Prop :=
  ∃ t, o = .next t ∧ t.port.issuer = s.port.issuer ∧ t.port.payload = s.port.payload

theorem next_completes {s t : State} (h : t.port = s.port) : Completes s (.next t) :=
  ⟨t, rfl, by rw [h], by rw [h]⟩

theorem finish_completes {s : State} {x : Ret × State} (h : x.2.port = s.port) : Completes s (finish x) :=
  ⟨_, rfl, by rw [State.answer_issuer, h], by rw [State.answer_payload, h]⟩

/-! ### What leaves the port -/

theorem SameBlock.port {s t : State} (h : SameBlock s t) : t.port = s.port := by
  obtain ⟨-, -, -, -, hport⟩ := h
  exact hport

theorem portTransferStable (p : Port) : TransferStable (fun u => u.port = p) :=
  transferStable_of_mastership (fun u hu => (requestAndTake_port u).trans hu) fun _ hu => hu

theorem addSocket_port (info : SocketInfo) (w : WaitCallback) (d : DoneCallback) (s : State) :
    (addSocket info w d s).2.port = s.port := by
  by_cases hf : s.eng.numSockets = s.cfg.maxSockets
  · rw [addSocket_full hf]
  · rw [addSocket_free hf]
    rfl

theorem releaseBus_port (s : State) : (releaseBus s).2.port = s.port := by
  cases hm : s.eng.mastered with
  | true =>
    rw [releaseBus_mastered hm]
    rfl
  | false => rw [releaseBus_unmastered hm]

/-! ### The callbacks' words from the host (30_encoding.md R105) -/

section
variable {s : State} (h : s.port.issuer = .host)
include h

theorem exec_onWaitCycle_host : exec .onWaitCycle s = finish (invalid, s) := by
  simp [exec, execOnWaitCycle, h]

theorem exec_onBusActionComplete_host : exec .onBusActionComplete s = finish (invalid, s) := by
  simp [exec, execOnBusActionComplete, h]

end

/-! ### Every instruction -/

/-- No instruction faults or is refused: a command word ends in its result, and a Z80 instruction leaves the
port. -/
theorem exec_completes (i : Instr) (s : State) : Completes s (exec i s) := by
  have hP := portStable s.port
  have hT := portTransferStable s.port
  have hport : s.port = s.port := rfl
  by_cases hz : i.isZ80 = true
  · obtain ⟨p, hp⟩ := Option.isSome_iff_exists.mp ((planOf_isSome i).trans hz)
    have hexec := exec_of_planOf hp s
    rw [hexec]
    exact next_completes (exec_z80_sameBlock hz hexec).port
  cases i with
  | addSocket => exact finish_completes (addSocket_port _ _ _ s)
  | enableSocket h e => exact finish_completes (hP.enableSocket hport _ _)
  | setWaitOn h m io => exact finish_completes (hP.setWaitOn hport _ _ _)
  | setHold h d => exact finish_completes (hP.setHold hport _ _)
  | requestAction h r a => exact finish_completes (hP.requestAction hport _ _ _)
  | requestBus h r => exact finish_completes (hP.requestBus hport _ _)
  | serviceTick => exact finish_completes ((tickActions_port (afterWait s)).trans (afterWait_port s))
  | checkPending => exact finish_completes (checkPending_port s)
  | startPending => exact finish_completes (startPending_port s)
  | advancePending => exact finish_completes (advancePending_port s)
  | requestAndTake => exact finish_completes (requestAndTake_port s)
  | release => exact finish_completes (releaseBus_port s)
  | blockRead auto io a => exact finish_completes (hP.blockRead hT hport _ _ _ _)
  | blockWrite auto io a => exact finish_completes (hP.blockWrite hT hport _ _ _ _)
  | trkEnable e => exact finish_completes (hP.trkEnable hport _)
  | trkRequestGet => exact finish_completes (hP.trkRequestGet hport)
  | trkStartSet => exact finish_completes (hP.trkStartSet hport _)
  | trkStep => exact finish_completes (hP.trkStep hport)
  | trkRun => exact finish_completes (hP.trkRun hport)
  | trkHalt => exact finish_completes (hP.trkHalt hport)
  | bpSet t j pc => exact finish_completes (hP.bpSet hport _ _ _ _)
  | bpClear t j => exact finish_completes (hP.bpClear hport _ _)
  | bpGlobalEnable e => exact finish_completes (hP.bpGlobalEnable hport _)
  | checkForBreak f a => exact finish_completes hport
  | isPrefix b => exact finish_completes hport
  | onWaitCycle =>
    cases hi : s.port.issuer with
    | host =>
      rw [exec_onWaitCycle_host hi]
      exact finish_completes hport
    | engine =>
      rw [exec_onWaitCycle hi rfl rfl rfl]
      exact finish_completes (hP.trackerOnWaitCycle hport _ _ _)
  | onBusActionComplete =>
    cases hi : s.port.issuer with
    | host =>
      rw [exec_onBusActionComplete_host hi]
      exact finish_completes hport
    | engine =>
      rw [exec_onBusActionComplete hi rfl rfl rfl]
      exact finish_completes (x := (okNone, _)) (hP.trackerOnComplete hport _ _ _)
  | _ => exact absurd rfl hz

/-! ### Every move -/

/-- An illegal word is only answered (30_encoding.md R106). -/
theorem hostTurn_illegal {w : Word32} (h : ∀ i, decodeCommand w ≠ .ok i) (p : Payload) (s : State) :
    hostTurn w p s = finish (invalid, atPort p s) := by
  cases hd : decodeCommand w with
  | ok i => exact absurd hd (h i)
  | error e => simp [hostTurn, hd]

/-- A host word completes, legal or not. -/
theorem hostTurn_completes (w : Word32) (p : Payload) (s : State) :
    Completes (atPort p s) (hostTurn w p s) := by
  by_cases hd : ∃ i, decodeCommand w = .ok i
  · obtain ⟨i, hd⟩ := hd
    rw [hostTurn_of_decode hd]
    exact exec_completes i _
  · rw [hostTurn_illegal (not_exists.mp hd)]
    exact finish_completes rfl

/-- A Z80 runs a row of 46_injection.md R361, or makes one bus cycle (30_encoding.md R109). -/
theorem z80Turn_completes (s : State) : Completes s (z80Turn s) := by
  unfold z80Turn
  split
  · split
    · exact exec_completes _ s
    · exact next_completes (z80Cycle_sameBlock s).port
  · exact next_completes (z80Cycle_sameBlock s).port

/-- Every move answers a next state. -/
theorem takeTurn_next (u : Turn) (s : State) : ∃ t, takeTurn u s = .next t := by
  cases u with
  | host w p =>
    obtain ⟨t, hnext, -⟩ := hostTurn_completes w p s
    exact ⟨t, hnext⟩
  | z80 =>
    obtain ⟨t, hnext, -⟩ := z80Turn_completes s
    exact ⟨t, hnext⟩
  | outside m => exact ⟨_, rfl⟩

theorem step_of_nextTurn {s : State} {u : Turn} (h : (nextTurn s).1 = u) :
    step s = takeTurn u (nextTurn s).2 := h ▸ rfl

/-- Settles O6: every move completes; that of an illegal word is its answer. -/
theorem hostWordsAlwaysComplete : Obligations.HostWordsAlwaysComplete := by
  refine ⟨fun s => step_of_nextTurn (s := s) rfl ▸ takeTurn_next _ _, fun s w p hw => ?_⟩
  have hstep : step s = hostTurn w p (nextTurn s).2 := step_of_nextTurn hw
  obtain ⟨t, hnext, hissuer, hpayload⟩ := hostTurn_completes w p (nextTurn s).2
  refine ⟨t, hstep.trans hnext, hissuer, hpayload, fun hd => ?_⟩
  rw [hostTurn_illegal hd] at hnext
  cases hnext
  exact ⟨rfl, rfl⟩

end Sys2Proof.Machine
end

section
/-! SUPPORT. The causes of InvalidArgument and Busy (60_exceptions.md R415, R416): every refusal is an answer and
no other change. -/

namespace Sys2Proof.Machine

/-- The three actions have a code other than 0 (40_socket_table.md R144). -/
theorem pulseOfCode_of_ne_zero {act : BitVec 2} (h : act ≠ 0) : ∃ p, pulseOfCode act = some p := by
  have hcodes : ∀ a : BitVec 2, a = 0 ∨ a = 1 ∨ a = 2 ∨ a = 3 := by decide
  obtain rfl | rfl | rfl | rfl := hcodes act
  · exact absurd rfl h
  · exact ⟨.reset, rfl⟩
  · exact ⟨.nmi, rfl⟩
  · exact ⟨.irq, rfl⟩

/-- A block transfer that is refused: too many bytes, or bytes with neither mastership nor AUTO
(43_mastership_block_io.md R255, R256). -/
theorem blockTransfer_invalid {s : State} {len : Nat} {auto : Bool} {atZero : Ret}
    {body : State → Ret × State}
    (h : 65536 < len ∨ 0 < len ∧ s.eng.mastered = false ∧ auto = false) :
    blockTransfer len auto atZero body s = (invalid, s) := by
  obtain hl | hl := Nat.lt_or_ge 65536 len
  · exact blockTransfer_tooLong hl
  · obtain hlong | ⟨h0, hm, rfl⟩ := h
    · exact absurd hlong (Nat.not_lt.mpr hl)
    · exact blockTransfer_unmastered hl h0 hm

/-- A command that answers and leaves the state. -/
theorem finish_of_eq {x : Ret × State} {r : Ret} {s : State} (h : x = (r, s)) :
    finish x = .next (s.answer r) := by
  rw [h, finish_eq]

/-- Settles O10: one refusal of the model's operations for each cause. -/
theorem refusedCommandsChangeNothing : Obligations.RefusedCommandsChangeNothing := by
  intro s
  refine ⟨fun h e m i d reason act hh => ?unregistered, fun h reason => ?noAction,
    fun t idx pc hout => ?outsideTable, fun hm => ?notMastered, fun auto io addr => ?transfer,
    fun he => ?trackerOff, fun hr => ?illegalMode, fun hi => ?fromHost,
    fun h reason act hh hact hstands => ?actionStands, fun h reason hh hstands => ?busStands,
    fun hb => ?busOwned, fun io addr hm hst => ?actionInProgress⟩
  case unregistered =>
    have hflags := fun f : Socket → Socket => finish_of_eq (changeSocket_bad (Nat.not_lt.mpr hh) f)
    exact ⟨hflags _, hflags _, hflags _, finish_of_eq (requestAction_unregistered reason hh act),
      finish_of_eq (requestBus_unregistered reason hh)⟩
  case noAction => exact finish_of_eq (requestAction_noAction reason s _)
  case outsideTable => exact ⟨finish_of_eq (bpSet_outside hout pc _), finish_of_eq (bpClear_outside hout)⟩
  case notMastered => exact finish_of_eq (releaseBus_unmastered hm)
  case transfer =>
    exact ⟨fun h => finish_of_eq (blockTransfer_invalid h), fun h => finish_of_eq (blockTransfer_invalid h)⟩
  case trackerOff =>
    obtain ⟨hget, hset, hstep, hrun, hhalt⟩ := tracker_off_refuses he s.port.payload.regs
    exact ⟨finish_of_eq hget, finish_of_eq hset, finish_of_eq hstep, finish_of_eq hrun, finish_of_eq hhalt⟩
  case illegalMode => exact finish_of_eq (trkStartSet_illegal hr)
  case fromHost => exact ⟨exec_onWaitCycle_host hi, exec_onBusActionComplete_host hi⟩
  case actionStands =>
    obtain ⟨p, hp⟩ := pulseOfCode_of_ne_zero hact
    exact finish_of_eq (requestAction_busy reason hh hp hstands)
  case busStands => exact finish_of_eq (requestBus_busy reason hh hstands)
  case busOwned =>
    refine finish_of_eq (requestAndTake_busy fun ⟨hm, hst⟩ => ?_)
    obtain hmastered | hact := hb
    · exact Bool.false_ne_true (hm ▸ hmastered)
    · exact hact hst
  case actionInProgress =>
    exact ⟨fun h0 hl => finish_of_eq (blockTransfer_busy hl h0 hm hst),
      fun h0 hl => finish_of_eq (blockTransfer_busy hl h0 hm hst)⟩

end Sys2Proof.Machine
end

section
/-! SUPPORT. The Z80 off the bus, in a wait, and on prefixed bytes that begin no row of 46_injection.md R361
(70_reset_and_hazards.md R461, R462, R465, 30_encoding.md R109). -/

namespace Sys2Proof.Machine

/-! ### The next cycle on prefixed bytes -/

/-- The instruction begins, or it has one byte, which calls for an opcode (30_encoding.md R108, R109). -/
theorem z80Next_atOpcode {z : Z80} (h : z.rx ∈ [[], [0xCB], [0xDD], [0xED], [0xFD]]) :
    z80Next z = .fetch := by
  obtain ⟨regs, rx, wr⟩ := z
  simp only [List.mem_cons, List.not_mem_nil, or_false] at h
  obtain rfl | rfl | rfl | rfl | rfl := h <;> rfl

/-- After DD CB or FD CB come the displacement and then the opcode. -/
theorem z80Next_afterIndexCb {z : Z80} (h : z.rx ∈ [[0xDD, 0xCB], [0xFD, 0xCB]] ∨
    ∃ d, z.rx ∈ [[0xDD, 0xCB, d], [0xFD, 0xCB, d]]) : z80Next z = .operand := by
  obtain ⟨regs, rx, wr⟩ := z
  simp only [List.mem_cons, List.not_mem_nil, or_false] at h
  obtain (rfl | rfl) | ⟨d, rfl | rfl⟩ := h <;> rfl

/-- The instruction goes on: bytes are to come, or its effect is open. -/
def NotOver (z : Z80) : Prop := z80Next z = .operand ∨ z80Next z = .outside

/-- The displacement leaves the opcode to come, and with its opcode the instruction's effect is open. -/
theorem notOver_afterIndexCb {z : Z80} {rx : List Byte} {b : Byte} (hz : z.rx = rx ++ [b])
    (h : rx ∈ [[0xDD, 0xCB], [0xFD, 0xCB]] ∨ ∃ d, rx ∈ [[0xDD, 0xCB, d], [0xFD, 0xCB, d]]) :
    NotOver z := by
  obtain ⟨regs, _, wr⟩ := z
  cases hz
  simp only [List.mem_cons, List.not_mem_nil, or_false] at h
  obtain (rfl | rfl) | ⟨d, rfl | rfl⟩ := h
  · exact .inl rfl
  · exact .inl rfl
  · exact .inr rfl
  · exact .inr rfl

/-- CB after DD or FD leaves two bytes to come, and an opcode other than CB after CB has an open effect. -/
theorem notOver_afterPrefix {z : Z80} {rx : List Byte} {b : Byte} (hz : z.rx = rx ++ [b])
    (h : rx ∈ [[0xDD], [0xFD]] ∧ b = 0xCB ∨ rx = [0xCB] ∧ b ≠ 0xCB) : NotOver z := by
  obtain ⟨regs, _, wr⟩ := z
  cases hz
  simp only [List.mem_cons, List.not_mem_nil, or_false] at h
  obtain ⟨rfl | rfl, rfl⟩ | ⟨rfl, hb⟩ := h
  · exact .inl rfl
  · exact .inl rfl
  · exact .inr (if_neg (by simpa using hb))

theorem z80Next_cbCb {z : Z80} (hz : z.rx = [0xCB, 0xCB]) : z80Next z = .retire planSet1E [] := by
  obtain ⟨regs, _, wr⟩ := z
  cases hz
  rfl

theorem z80Next_edPrefix {z : Z80} {b : Byte} (hz : z.rx = [0xED, b])
    (hb : b ∈ [0xCB, 0xDD, 0xED, 0xFD]) : z80Next z = .retire planEdNop [] := by
  obtain ⟨regs, _, wr⟩ := z
  cases hz
  simp only [List.mem_cons, List.not_mem_nil, or_false] at hb
  obtain rfl | rfl | rfl | rfl := hb <;> rfl

/-! ### A Z80 that is not free makes one bus cycle -/

theorem exec_of_not_z80Free {s : State} {i : Instr} (hi : i.isZ80 = true) (hf : z80Free s = false) :
    exec i s = .next (z80Cycle s) := by
  obtain ⟨p, hp⟩ := Option.isSome_iff_exists.mp ((planOf_isSome i).trans hi)
  rw [exec_of_planOf hp, z80Exec, hf]
  rfl

theorem exec_of_offBus {s : State} {i : Instr} (hi : i.isZ80 = true) (ho : offBus s = true) :
    exec i s = .next s := by
  rw [exec_of_not_z80Free hi (by simp [z80Free, ho]), z80Cycle, if_pos ho]

/-- In the middle of an instruction the Z80 is not free. -/
theorem exec_of_rx {s : State} {i : Instr} (hi : i.isZ80 = true) (hrx : s.world.z80.rx ≠ []) :
    exec i s = .next (z80Cycle s) :=
  exec_of_not_z80Free hi (by simp [z80Free, hrx])

/-- A program byte whose fetch waits: the cycle is presented, with M1 or without. -/
theorem z80Cycle_waits {s : State} {f : CtrlFlags} (ho : offBus s = false)
    (hm : s.eng.waitGenMem = true)
    (hn : f = flagsFetch ∧ z80Next s.world.z80 = .fetch ∨
      f = flagsRead ∧ z80Next s.world.z80 = .operand) :
    z80Cycle s = (drawSettle s).2.withWorld { (drawSettle s).2.world with
      present := some { flags := f, addr := s.world.z80.regs.pc, data := 0
                        settle := (drawSettle s).1, byZ80 := true } } := by
  have hw : waitsFor (sixFlags f) s = true := by obtain ⟨rfl, -⟩ | ⟨rfl, -⟩ := hn <;> exact hm
  have hcycle : z80Cycle s = startCycle f s.world.z80.regs.pc 0 true s := by
    obtain ⟨rfl, hn⟩ | ⟨rfl, hn⟩ := hn <;> rw [z80Cycle, if_neg (by simp [ho]), hn]
  rw [hcycle, startCycle, if_pos hw]

/-! ### A program byte whose fetch does not wait -/

theorem z80Retire_notOver {z : Z80} (h : NotOver z) (free : Byte) : z80Retire free z = (false, z) := by
  obtain h | h := h <;> rw [z80Retire, h]

theorem z80Retire_over {z : Z80} {p : Plan} {data : List Byte} (h : z80Next z = .retire p data)
    (free : Byte) : z80Retire free z = (true, z80Idle (retire p free data z.regs)) := by
  rw [z80Retire, h]

theorem z80Take_opcode {z : Z80} (h : z80Next z = .fetch) (b : Byte) :
    z80Take b z = { z with rx := z.rx ++ [b], regs := passOpcode z.regs } := by
  rw [z80Take, h]

theorem z80Take_operand {z : Z80} (h : z80Next z = .operand) (b : Byte) :
    z80Take b z = { z with rx := z.rx ++ [b], regs := passByte z.regs } := by
  rw [z80Take, h]

section
variable {s : State} {b : Byte} (hs : RunsFree s) (hb : b = memRead s.world.z80.regs.pc s)
include hs hb

/-- The instruction goes on after an M1 fetch, -/
theorem z80Cycle_opcode_goes (hn : z80Next s.world.z80 = .fetch)
    (hgo : NotOver ⟨passOpcode s.world.z80.regs, s.world.z80.rx ++ [b], s.world.z80.wr⟩) :
    z80Cycle s = s.withWorld { s.world with z80 := { s.world.z80 with
      rx := s.world.z80.rx ++ [b], regs := passOpcode s.world.z80.regs } } := by
  rw [z80Cycle_opcode hs hn, ← hb]
  exact z80Step_goes (z80Take_opcode hn b) (z80Retire_notOver hgo)

/-- or after a read without M1, -/
theorem z80Cycle_operand_goes (hn : z80Next s.world.z80 = .operand)
    (hgo : NotOver ⟨passByte s.world.z80.regs, s.world.z80.rx ++ [b], s.world.z80.wr⟩) :
    z80Cycle s = s.withWorld { s.world with z80 := { s.world.z80 with
      rx := s.world.z80.rx ++ [b], regs := passByte s.world.z80.regs } } := by
  rw [z80Cycle_operand hs hn, ← hb]
  exact z80Step_goes (z80Take_operand hn b) (z80Retire_notOver hgo)

/-- or it ends after an M1 fetch. -/
theorem z80Cycle_opcode_ends {p : Plan} {data : List Byte} (hn : z80Next s.world.z80 = .fetch)
    (hend : z80Next ⟨passOpcode s.world.z80.regs, s.world.z80.rx ++ [b], s.world.z80.wr⟩ =
      .retire p data) :
    z80Cycle s = afterZ80 s (retire p (Config.freeFlags s.world.draws) data
      (passOpcode s.world.z80.regs)) s.world.mem := by
  rw [z80Cycle_opcode hs hn, ← hb]
  exact z80Step_ends (z80Take_opcode hn b) (z80Retire_over hend)

end

/-- Settles O48: off the bus there is no cycle; else the bytes received say which cycle comes next, whether
it waits, and whether it ends the instruction. -/
theorem zWaitsAndHolds : Obligations.ZWaitsAndHolds := by
  refine fun s i hi => ⟨fun hoff => ?still, fun f ho hm _ hf => ?waits, fun ho hm hpage z b hz hb => ?runs⟩
  case still => exact exec_of_offBus hi (by simpa [offBus, inWait, or_assoc] using hoff)
  case waits =>
    refine ⟨(drawSettle s).1, ?_⟩
    rw [exec_of_not_z80Free hi (by simp [z80Free, hm]), z80Cycle_waits ho hm]
    obtain ⟨rfl, hrx⟩ | ⟨rfl, hrx⟩ | ⟨rfl, hrx⟩ := hf
    · exact .inl ⟨rfl, z80Next_atOpcode hrx⟩
    · exact .inr ⟨rfl, z80Next_afterIndexCb (.inl hrx)⟩
    · exact .inr ⟨rfl, z80Next_afterIndexCb (.inr hrx)⟩
  case runs =>
    subst hz
    have hs : RunsFree s := ⟨ho, hm, hpage⟩
    refine ⟨fun hrx => ?indexCb, fun hrx => ?prefixed, fun hrx hnop => ?edNop, fun hrx hcb => ?set1E⟩
    case indexCb =>
      have hne : s.world.z80.rx ≠ [] := by intro hnil; simp [hnil] at hrx
      rw [exec_of_rx hi hne, z80Cycle_operand_goes hs hb (z80Next_afterIndexCb hrx)
        (notOver_afterIndexCb rfl hrx)]
      rfl
    case prefixed =>
      have hne : s.world.z80.rx ≠ [] := by intro hnil; simp [hnil] at hrx
      have hn : s.world.z80.rx ∈ [[], [0xCB], [0xDD], [0xED], [0xFD]] := by
        simp only [List.mem_cons, List.not_mem_nil, or_false] at hrx ⊢
        tauto
      rw [exec_of_rx hi hne, z80Cycle_opcode_goes hs hb (z80Next_atOpcode hn)
        (notOver_afterPrefix rfl hrx)]
      rfl
    case edNop =>
      have hn : z80Next s.world.z80 = .fetch := z80Next_atOpcode (by simp [hrx])
      rw [exec_of_rx hi (by simp [hrx]),
        z80Cycle_opcode_ends hs hb hn (z80Next_edPrefix (by rw [hrx]; rfl) hnop)]
      rfl
    case set1E =>
      have hn : z80Next s.world.z80 = .fetch := z80Next_atOpcode (by simp [hrx])
      rw [exec_of_rx hi (by simp [hrx]),
        z80Cycle_opcode_ends hs hb hn (z80Next_cbCb (by rw [hrx, hcb]; rfl))]
      rfl

end Sys2Proof.Machine
end

section
/-! SUPPORT. The state after start-of-day (70_reset_and_hazards.md R450 to R452) meets the invariants. -/

namespace Sys2Proof.Machine

/-- The tracker has slot 0. -/
theorem sockAt_startOfDay_zero (p : Params) : sockAt (State.startOfDay p) 0 = Socket.trackerAtReset := rfl

/-- Every other slot is unregistered. -/
theorem sockAt_startOfDay_succ (p : Params) (h : Nat) :
    sockAt (State.startOfDay p) (h + 1) = Socket.blank := by
  have hslots : sockAt (State.startOfDay p) (h + 1) =
      (List.replicate (p.maxSockets - 1) Socket.blank).getD h Socket.blank := rfl
  rw [hslots, List.getD_eq_getElem?_getD, List.getElem?_replicate]
  split <;> rfl

theorem startOfDay_tableOk {p : Params} (hp : 1 ≤ p.maxSockets) : TableOk (State.startOfDay p) := by
  have hlen : (State.startOfDay p).eng.sock.length = p.maxSockets := by
    simp [State.startOfDay, Engine.atReset, hp]
  refine ⟨hlen, le_rfl, hp, fun h _ => ?_, fun h _ hpos => ?_, rfl, rfl, rfl, List.length_replicate,
    List.length_replicate⟩
  · cases h with
    | zero => exact iff_of_true rfl Nat.one_pos
    | succ h =>
      rw [sockAt_startOfDay_succ]
      exact iff_of_false nofun (Nat.not_lt.mpr (Nat.le_add_left 1 h))
  · obtain ⟨h, rfl⟩ := Nat.exists_eq_add_one.mpr hpos
    rw [sockAt_startOfDay_succ]
    exact ⟨nofun, nofun⟩

/-- The aggregates are those of the tracker alone: computing them again changes nothing. -/
theorem recompute_startOfDay (p : Params) : recompute (State.startOfDay p) = State.startOfDay p := rfl

theorem startOfDay_socketsOk {p : Params} (hp : 1 ≤ p.maxSockets) : SocketsOk (State.startOfDay p) :=
  ⟨startOfDay_tableOk hp, recompute_startOfDay p ▸ recompute_aggregatesOk (State.startOfDay p)⟩

theorem startOfDay_memoryOk (p : Params) : MemoryOk (State.startOfDay p) := ⟨startOfDay_mem_wf p, rfl⟩

/-- No action is in progress, no line is asserted, and the Z80 has the bus. -/
theorem startOfDay_busOwnershipOk (p : Params) : BusOwnershipOk (State.startOfDay p) :=
  ⟨iff_of_true rfl rfl, fun _ => rfl, nofun, iff_of_false nofun nofun, iff_of_false nofun nofun,
    iff_of_false nofun nofun, rfl, rfl, nofun⟩

/-- The tracker is off and injects nothing. -/
theorem startOfDay_trackerOk (p : Params) : TrackerOk (State.startOfDay p) :=
  ⟨nofun, iff_of_false nofun (· rfl), iff_of_false nofun nofun, fun _ => ⟨rfl, rfl⟩, nofun, nofun, nofun,
    nofun, fun _ => ⟨rfl, rfl, rfl, rfl, rfl, rfl⟩, nofun, .inr (.inr (.inr rfl)), rfl⟩

/-- No wait is asserted, and every time stamp is the clock's first value. -/
theorem startOfDay_waitOk (p : Params) : WaitOk (State.startOfDay p) :=
  ⟨rfl, nofun, le_rfl, le_rfl, le_rfl⟩

theorem startOfDay_breakpoints_off (p : Params) {e : Breakpoint}
    (he : e ∈ (State.startOfDay p).bp.fast ++ (State.startOfDay p).bp.slow) : e.enabled = false := by
  obtain he | he := List.mem_append.mp he <;> rw [List.eq_of_mem_replicate he] <;> rfl

/-- Settles O58: each field is that of the reset values, and each invariant has its lemma. -/
theorem startOfDayState : Obligations.StartOfDayState := by
  rintro p ⟨hp, -⟩ s rfl
  refine ⟨rfl, rfl, rfl, rfl, rfl, rfl, rfl, rfl, rfl, rfl, rfl, rfl, rfl, rfl, rfl, rfl, rfl, rfl, rfl,
    rfl, rfl, rfl, rfl, rfl, rfl, ?_⟩
  exact ⟨fun _ => startOfDay_breakpoints_off p, rfl, startOfDay_memoryOk p, startOfDay_socketsOk hp,
    startOfDay_busOwnershipOk p, startOfDay_trackerOk p, startOfDay_waitOk p⟩

end Sys2Proof.Machine
end
